-- ==== Sys2Proof/Word.lean ====
section
/-! DEFINITION. The word types of the machine (spec/10_state.md R10, R14, R15 and spec/30_encoding.md R62). -/

namespace Sys2Proof

/-- A memory cell, a general register, a timer value, an 8-bit immediate `NN`. -/
abbrev Byte := BitVec 8

/-- An opcode. -/
abbrev Word := BitVec 16

/-- The 4-bit fields `X` and `Y`: the index of a general register, always in 0 to 15 (R10). -/
abbrev RegIdx := BitVec 4

/-- The 12-bit address immediate `NNN`, also the width of the loader port's address (R28). -/
abbrev Addr12 := BitVec 12

end Sys2Proof
end

