-- ==== Sys2Proof/Config.lean ====
section
/-! DEFINITION. The fixed parameters of spec/00_scope.md R5, the two build switches of R4, and the free inputs of a
cycle (spec/10_state.md R29, R30; spec/60_exceptions.md R167). -/

namespace Sys2Proof

/-- `SHIFT_MODE` (R4): which register SHR and SHL shift. -/
inductive ShiftMode where
  /-- The shift operand comes from register Y, the result is stored in X. -/
  | legacy
  /-- The shift operand comes from register X itself, Y is ignored. -/
  | modern
  deriving DecidableEq, Repr, Inhabited

/-- `JUMP_MODE` (R4): which register JPV adds. -/
inductive JumpMode where
  /-- Add register V0. -/
  | legacy
  /-- Add register VX, X taken from the opcode. -/
  | modern
  deriving DecidableEq, Repr, Inhabited

/-- The two build-time constants of R4. They are fixed for a machine; no instruction reads or writes them as data. -/
structure Build where
  shiftMode : ShiftMode
  jumpMode  : JumpMode
  deriving DecidableEq, Repr, Inhabited

/-- What the outside world supplies around ONE cycle: the key snapshot sampled at its start (R29), the random byte that
RND draws (R30), and how many ticks of each timer fall after it and before the next one (R167). -/
structure CycleInputs where
  keys    : BitVec 16
  rnd     : Byte
  ticksDT : Nat
  ticksST : Nat
  deriving DecidableEq, Repr, Inhabited

namespace Config

/-- "Default: modern" for the shift, "Default: legacy" for the jump (R4). -/
def defaultBuild : Build := { shiftMode := .modern, jumpMode := .legacy }

/-- `MEM_SIZE`: addresses 0x000 to 0xFFF. -/
abbrev memSize : Nat := 4096

/-- `NUM_V`. -/
abbrev numV : Nat := 16

/-- `I_WIDTH`: bits of the index register. -/
abbrev iWidth : Nat := 16

/-- `PC_WIDTH`: bits of the program counter, and so of a return address. -/
abbrev pcWidth : Nat := 16

/-- `STACK_DEPTH` (decision D3). -/
abbrev stackDepth : Nat := 16

/-- `FONT_BASE`. -/
abbrev fontBase : Nat := 0x050

/-- `FONT_LEN`: 16 glyphs of 5 bytes. -/
abbrev fontLen : Nat := 80

/-- Bytes of one glyph (R5: "16 glyphs of 5 bytes"). -/
abbrev glyphLen : Nat := 5

/-- `PROG_BASE`, also the reset value of `pc`. -/
abbrev progBase : Nat := 0x200

/-- `PROG_MAX_LEN` (decision D20). -/
abbrev progMaxLen : Nat := 3584

/-- `DISPLAY_W`: also the bits of a row of the frame buffer. -/
abbrev displayW : Nat := 64

/-- `DISPLAY_H`: also the rows of the frame buffer. -/
abbrev displayH : Nat := 32

/-- `COL_MODULUS`, that is `DISPLAY_W - 1`: surprising and kept (decision D18). -/
abbrev colModulus : Nat := 63

/-- `ADD_CARRY_THRESHOLD`: surprising and kept (decision D18). -/
abbrev addCarryThreshold : Nat := 255

/-- `I_FLAG_THRESHOLD`: surprising and kept (decision D18). -/
abbrev iFlagThreshold : Nat := 0x1000

/-- `TIMER_HZ`: nominal, no rule depends on it (R169). -/
abbrev timerHz : Nat := 60

/-- `BEEP_DIVISOR`. -/
abbrev beepDivisor : Nat := 30

/-- `IPS_TARGET`: advisory, no rule depends on it (R195). -/
abbrev ipsTarget : Nat := 700

/-- FREE VALUE (notes/assumptions/1.md): the inputs of the cycle with a given number, where the host has fixed none.
There is no body, so nothing can be proved of what it gives: "any of the 65536 values may appear at any cycle" (R29),
"a model must hold for every value 0 to 255" (R30), "the numbers are free: a claim must hold for every choice" (R167). -/
opaque inputAt : Nat → CycleInputs

/-- PRESUMED (notes/assumptions/17.md): the customary font of spec/93_implementation_defined.md G1, general knowledge
and not the source's. `FONT` itself is open (R184): the loader takes it as an argument, and nothing else uses this. -/
def customaryFont : Vector Byte fontLen :=
  #v[0xF0, 0x90, 0x90, 0x90, 0xF0,  0x20, 0x60, 0x20, 0x20, 0x70,
     0xF0, 0x10, 0xF0, 0x80, 0xF0,  0xF0, 0x10, 0xF0, 0x10, 0xF0,
     0x90, 0x90, 0xF0, 0x10, 0x10,  0xF0, 0x80, 0xF0, 0x10, 0xF0,
     0xF0, 0x80, 0xF0, 0x90, 0xF0,  0xF0, 0x10, 0x20, 0x40, 0x40,
     0xF0, 0x90, 0xF0, 0x90, 0xF0,  0xF0, 0x90, 0xF0, 0x10, 0xF0,
     0xF0, 0x90, 0xF0, 0x90, 0x90,  0xE0, 0x90, 0xE0, 0x90, 0xE0,
     0xF0, 0x80, 0x80, 0x80, 0xF0,  0xE0, 0x90, 0x90, 0x90, 0xE0,
     0xF0, 0x80, 0xF0, 0x80, 0xF0,  0xF0, 0x80, 0xF0, 0x80, 0x80]

end Config

/-- A value of the index register (R14). -/
abbrev IndexWord := BitVec Config.iWidth

/-- A value of the program counter, and a return address (R15, R19). -/
abbrev PcWord := BitVec Config.pcWidth

end Sys2Proof
end

