-- ==== Sys2Proof/Syntax.lean ====
section
/-! DEFINITION. The instructions: one constructor for each row of spec/opcode_table.json (spec/30_encoding.md R66, R69),
with the operand fields of R62. A field that a rule says is not examined (the `X` of CLS and RET, R68; the `N` of SE_REG
and SNE_REG, R67; the operand bits of the four no-op sets) is kept in the term, so that an instruction
still says which of the 65536 words it came from: the fault record holds that word (R156). notes/assumptions/9.md. -/

namespace Sys2Proof

inductive Instr where
  /-- 00E0 `CLS` (R122); `x` is not examined (R68). -/
  | cls (x : RegIdx)
  /-- 00EE `RET` (R80); `x` is not examined (R68). -/
  | ret (x : RegIdx)
  /-- 1NNN `JP` (R81). -/
  | jp (nnn : Addr12)
  /-- 2NNN `CALL` (R82). -/
  | call (nnn : Addr12)
  /-- 3XNN `SE_IMM` (R84). -/
  | seImm (x : RegIdx) (nn : Byte)
  /-- 4XNN `SNE_IMM` (R85). -/
  | sneImm (x : RegIdx) (nn : Byte)
  /-- 5XY0 `SE_REG` (R86); `n` is not examined (R67). -/
  | seReg (x y : RegIdx) (n : BitVec 4)
  /-- 6XNN `LD_IMM` (R91). -/
  | ldImm (x : RegIdx) (nn : Byte)
  /-- 7XNN `ADD_IMM` (R92). -/
  | addImm (x : RegIdx) (nn : Byte)
  /-- 8XY0 `MOV` (R93). -/
  | mov (x y : RegIdx)
  /-- 8XY1 `OR` (R94). -/
  | or (x y : RegIdx)
  /-- 8XY2 `AND` (R95). -/
  | and (x y : RegIdx)
  /-- 8XY3 `XOR` (R96). -/
  | xor (x y : RegIdx)
  /-- 8XY4 `ADD` (R97). -/
  | add (x y : RegIdx)
  /-- 8XY5 `SUB` (R98). -/
  | sub (x y : RegIdx)
  /-- 8XY6 `SHR` (R99). -/
  | shr (x y : RegIdx)
  /-- 8XY7 `SUBN` (R100). -/
  | subn (x y : RegIdx)
  /-- 8XYE `SHL` (R101). -/
  | shl (x y : RegIdx)
  /-- 9XY0 `SNE_REG` (R87); `n` is not examined (R67). -/
  | sneReg (x y : RegIdx) (n : BitVec 4)
  /-- ANNN `LDI` (R110). -/
  | ldi (nnn : Addr12)
  /-- BNNN `JPV` (R83); `X`, the top nibble of `nnn`, names the register when `JUMP_MODE = modern`. -/
  | jpv (nnn : Addr12)
  /-- CXNN `RND` (R102). -/
  | rnd (x : RegIdx) (nn : Byte)
  /-- DXYN `DRW` (R123). -/
  | drw (x y : RegIdx) (n : BitVec 4)
  /-- EX9E `SKP` (R130). -/
  | skp (x : RegIdx)
  /-- EXA1 `SKNP` (R131). -/
  | sknp (x : RegIdx)
  /-- FX07 `GETDT` (R132). -/
  | getdt (x : RegIdx)
  /-- FX0A `WAITK` (R133); `x` is decoded and not used. -/
  | waitk (x : RegIdx)
  /-- FX15 `SETDT` (R134). -/
  | setdt (x : RegIdx)
  /-- FX18 `SETST` (R135). -/
  | setst (x : RegIdx)
  /-- FX1E `ADDI` (R111). -/
  | addi (x : RegIdx)
  /-- FX29 `FONT` (R112). -/
  | font (x : RegIdx)
  /-- FX33 `BCD` (R114). -/
  | bcd (x : RegIdx)
  /-- FX55 `STM` (R115). -/
  | stm (x : RegIdx)
  /-- FX65 `LDM` (R116). -/
  | ldm (x : RegIdx)
  /-- `NOP0` (R140): category 0 with an unlisted `NN`. -/
  | nop0 (nnn : Addr12)
  /-- `NOP8` (R141): category 8 with an unlisted `N`. -/
  | nop8 (x y : RegIdx) (n : BitVec 4)
  /-- `NOPE` (R142): category E with an unlisted `NN`. -/
  | nope (x : RegIdx) (nn : Byte)
  /-- `NOPF` (R143): category F with an unlisted `NN`. -/
  | nopf (x : RegIdx) (nn : Byte)
  deriving DecidableEq, Repr

/-- The mnemonic of the instruction's row in spec/opcode_table.json (R66, R69, R72). -/
def Instr.mnemonic : Instr → String
  | .cls _ => "CLS"
  | .ret _ => "RET"
  | .jp _ => "JP"
  | .call _ => "CALL"
  | .seImm _ _ => "SE_IMM"
  | .sneImm _ _ => "SNE_IMM"
  | .seReg _ _ _ => "SE_REG"
  | .ldImm _ _ => "LD_IMM"
  | .addImm _ _ => "ADD_IMM"
  | .mov _ _ => "MOV"
  | .or _ _ => "OR"
  | .and _ _ => "AND"
  | .xor _ _ => "XOR"
  | .add _ _ => "ADD"
  | .sub _ _ => "SUB"
  | .shr _ _ => "SHR"
  | .subn _ _ => "SUBN"
  | .shl _ _ => "SHL"
  | .sneReg _ _ _ => "SNE_REG"
  | .ldi _ => "LDI"
  | .jpv _ => "JPV"
  | .rnd _ _ => "RND"
  | .drw _ _ _ => "DRW"
  | .skp _ => "SKP"
  | .sknp _ => "SKNP"
  | .getdt _ => "GETDT"
  | .waitk _ => "WAITK"
  | .setdt _ => "SETDT"
  | .setst _ => "SETST"
  | .addi _ => "ADDI"
  | .font _ => "FONT"
  | .bcd _ => "BCD"
  | .stm _ => "STM"
  | .ldm _ => "LDM"
  | .nop0 _ => "NOP0"
  | .nop8 _ _ _ => "NOP8"
  | .nope _ _ => "NOPE"
  | .nopf _ _ => "NOPF"

end Sys2Proof
end

