-- ==== Sys2Proof/WellFormed.lean ====
section
/-! DEFINITION. Which terms of `Instr` are instructions of the machine. The operand widths are in the types; what is left
to check is that a no-op term holds an UNLISTED combination (spec/30_encoding.md R69). `Instr.canonical` says in addition
that the fields a rule does not examine are zero, as an assembler writes them (R67, R68). -/

namespace Sys2Proof

/-- Category 0: `NN` not in E0, EE (R140). -/
def unlisted0 (nn : Byte) : Bool := !([0xE0, 0xEE] : List Byte).contains nn

/-- Category 8: `N` in 8, 9, A, B, C, D, F (R141). -/
def unlisted8 (n : BitVec 4) : Bool := ([0x8, 0x9, 0xA, 0xB, 0xC, 0xD, 0xF] : List (BitVec 4)).contains n

/-- Category E: `NN` not in 9E, A1 (R142). -/
def unlistedE (nn : Byte) : Bool := !([0x9E, 0xA1] : List Byte).contains nn

/-- Category F: `NN` not in the nine listed values (R143). -/
def unlistedF (nn : Byte) : Bool :=
  !([0x07, 0x0A, 0x15, 0x18, 0x1E, 0x29, 0x33, 0x55, 0x65] : List Byte).contains nn

def Instr.wf : Instr → Bool
  | .nop0 nnn => unlisted0 (nnn.setWidth 8)
  | .nop8 _ _ n => unlisted8 n
  | .nope _ nn => unlistedE nn
  | .nopf _ nn => unlistedF nn
  | .cls _ | .ret _ | .jp _ | .call _ | .seImm _ _ | .sneImm _ _ | .seReg _ _ _ | .ldImm _ _ | .addImm _ _
  | .mov _ _ | .or _ _ | .and _ _ | .xor _ _ | .add _ _ | .sub _ _ | .shr _ _ | .subn _ _ | .shl _ _
  | .sneReg _ _ _ | .ldi _ | .jpv _ | .rnd _ _ | .drw _ _ _ | .skp _ | .sknp _ | .getdt _ | .waitk _
  | .setdt _ | .setst _ | .addi _ | .font _ | .bcd _ | .stm _ | .ldm _ => true

/-- An assembler emits only these: well-formed, and an unexamined `N` or `X` is zero (R67, R68). -/
def Instr.canonical : Instr → Bool
  | .cls x | .ret x => x == 0
  | .seReg _ _ n | .sneReg _ _ n => n == 0
  | .nop0 nnn => Instr.wf (.nop0 nnn)
  | .nop8 x y n => Instr.wf (.nop8 x y n)
  | .nope x nn => Instr.wf (.nope x nn)
  | .nopf x nn => Instr.wf (.nopf x nn)
  | .jp _ | .call _ | .seImm _ _ | .sneImm _ _ | .ldImm _ _ | .addImm _ _
  | .mov _ _ | .or _ _ | .and _ _ | .xor _ _ | .add _ _ | .sub _ _ | .shr _ _ | .subn _ _ | .shl _ _
  | .ldi _ | .jpv _ | .rnd _ _ | .drw _ _ _ | .skp _ | .sknp _ | .getdt _ | .waitk _
  | .setdt _ | .setst _ | .addi _ | .font _ | .bcd _ | .stm _ | .ldm _ => true

end Sys2Proof
end

