-- ==== Sys2Proof/Decode.lean ====
section
/-! DEFINITION. The decoder (spec/30_encoding.md R61, R62, R65, R69, R70; byte order spec/20_memory.md R44), total on any
bytes, and after it the encoder, the opcode table as data (R66, R69, R71) and the listing syntax (R72, R73). -/

namespace Sys2Proof

/-! ## The fields of an opcode (R62) -/

/-- `cat`, bits 15:12. -/
def opCat (w : Word) : BitVec 4 := w.extractLsb' 12 4

/-- `X`, bits 11:8. -/
def opX (w : Word) : RegIdx := w.extractLsb' 8 4

/-- `Y`, bits 7:4. -/
def opY (w : Word) : RegIdx := w.extractLsb' 4 4

/-- `N`, bits 3:0. -/
def opN (w : Word) : BitVec 4 := w.extractLsb' 0 4

/-- `NN`, bits 7:0. -/
def opNN (w : Word) : Byte := w.extractLsb' 0 8

/-- `NNN`, bits 11:0. -/
def opNNN (w : Word) : Addr12 := w.extractLsb' 0 12

/-- The opcode formed from the byte at `pc` (high) and the byte at `pc + 1` (low) (R44). -/
def joinBytes (hi lo : Byte) : Word := hi ++ lo

/-- The byte stored first, bits 15:8 (R44). -/
def highByte (w : Word) : Byte := w.extractLsb' 8 8

/-- The byte stored second, bits 7:0 (R44). -/
def lowByte (w : Word) : Byte := w.extractLsb' 0 8

/-! ## Decoding -/

/-- Category 0: nested dispatch on `NN` (R65, R68). -/
def decodeCat0 (w : Word) : Instr :=
  match opNN w with
  | 0xE0#8 => .cls (opX w)
  | 0xEE#8 => .ret (opX w)
  | _ => .nop0 (opNNN w)

/-- Category 8: nested dispatch on `N` (R65). -/
def decodeCat8 (w : Word) : Instr :=
  match opN w with
  | 0x0#4 => .mov (opX w) (opY w)
  | 0x1#4 => .or (opX w) (opY w)
  | 0x2#4 => .and (opX w) (opY w)
  | 0x3#4 => .xor (opX w) (opY w)
  | 0x4#4 => .add (opX w) (opY w)
  | 0x5#4 => .sub (opX w) (opY w)
  | 0x6#4 => .shr (opX w) (opY w)
  | 0x7#4 => .subn (opX w) (opY w)
  | 0xE#4 => .shl (opX w) (opY w)
  | _ => .nop8 (opX w) (opY w) (opN w)

/-- Category E: nested dispatch on `NN` (R65). -/
def decodeCatE (w : Word) : Instr :=
  match opNN w with
  | 0x9E#8 => .skp (opX w)
  | 0xA1#8 => .sknp (opX w)
  | _ => .nope (opX w) (opNN w)

/-- Category F: nested dispatch on `NN` (R65). -/
def decodeCatF (w : Word) : Instr :=
  match opNN w with
  | 0x07#8 => .getdt (opX w)
  | 0x0A#8 => .waitk (opX w)
  | 0x15#8 => .setdt (opX w)
  | 0x18#8 => .setst (opX w)
  | 0x1E#8 => .addi (opX w)
  | 0x29#8 => .font (opX w)
  | 0x33#8 => .bcd (opX w)
  | 0x55#8 => .stm (opX w)
  | 0x65#8 => .ldm (opX w)
  | _ => .nopf (opX w) (opNN w)

/-- Every one of the 65536 opcodes is exactly one instruction (R70): dispatch on `cat` first (R65). -/
def decodeWord (w : Word) : Instr :=
  match opCat w with
  | 0x0#4 => decodeCat0 w
  | 0x1#4 => .jp (opNNN w)
  | 0x2#4 => .call (opNNN w)
  | 0x3#4 => .seImm (opX w) (opNN w)
  | 0x4#4 => .sneImm (opX w) (opNN w)
  | 0x5#4 => .seReg (opX w) (opY w) (opN w)
  | 0x6#4 => .ldImm (opX w) (opNN w)
  | 0x7#4 => .addImm (opX w) (opNN w)
  | 0x8#4 => decodeCat8 w
  | 0x9#4 => .sneReg (opX w) (opY w) (opN w)
  | 0xA#4 => .ldi (opNNN w)
  | 0xB#4 => .jpv (opNNN w)
  | 0xC#4 => .rnd (opX w) (opNN w)
  | 0xD#4 => .drw (opX w) (opY w) (opN w)
  | 0xE#4 => decodeCatE w
  | _ => decodeCatF w

/-- Why bytes are no instruction: the one reason this machine has (R61: every instruction is two bytes). -/
inductive DecodeError where
  /-- Fewer than two bytes are left. -/
  | truncated (bytesLeft : Nat)
  deriving DecidableEq, Repr

/-- One instruction from a list of bytes as memory holds them (R44, R61), and the bytes after it. -/
def decodeBytes : List Byte → Except DecodeError (Instr × List Byte)
  | hi :: lo :: rest => .ok (decodeWord (joinBytes hi lo), rest)
  | [_] => .error (.truncated 1)
  | [] => .error (.truncated 0)

/-- The instruction the decoder reads from `w`, numbered as spec/opcode_table.json numbers its bits (one 16-bit word);
the bits from `nbits` on are 0. No row is longer than one word, so a longer `nbits` is refused (log 20). -/
def decodeTableWord (nbits w : Nat) : Option Instr :=
  if nbits ≤ 16 then
    let word : Word := BitVec.ofNat 16 (w % 2 ^ nbits)
    match decodeBytes [highByte word, lowByte word] with
    | .ok (i, _) => some i
    | .error _ => none
  else none

/-! ## Encoding -/

/-- Format `ADDR`: `cNNN` (R63). -/
def packAddr (cat : BitVec 4) (nnn : Addr12) : Word := cat ++ nnn

/-- Formats `RI` and `RX`: `cXNN` (R63). -/
def packRI (cat : BitVec 4) (x : RegIdx) (nn : Byte) : Word := cat ++ (x ++ nn)

/-- Formats `RR`, `ALU` and `DRAW`: `cXYN` (R63). -/
def packRR (cat : BitVec 4) (x y : RegIdx) (n : BitVec 4) : Word := cat ++ (x ++ (y ++ n))

/-- The opcode of an instruction, from the patterns of R66 and R69. -/
def encode : Instr → Word
  | .cls x => packRI 0x0 x 0xE0
  | .ret x => packRI 0x0 x 0xEE
  | .jp nnn => packAddr 0x1 nnn
  | .call nnn => packAddr 0x2 nnn
  | .seImm x nn => packRI 0x3 x nn
  | .sneImm x nn => packRI 0x4 x nn
  | .seReg x y n => packRR 0x5 x y n
  | .ldImm x nn => packRI 0x6 x nn
  | .addImm x nn => packRI 0x7 x nn
  | .mov x y => packRR 0x8 x y 0x0
  | .or x y => packRR 0x8 x y 0x1
  | .and x y => packRR 0x8 x y 0x2
  | .xor x y => packRR 0x8 x y 0x3
  | .add x y => packRR 0x8 x y 0x4
  | .sub x y => packRR 0x8 x y 0x5
  | .shr x y => packRR 0x8 x y 0x6
  | .subn x y => packRR 0x8 x y 0x7
  | .shl x y => packRR 0x8 x y 0xE
  | .sneReg x y n => packRR 0x9 x y n
  | .ldi nnn => packAddr 0xA nnn
  | .jpv nnn => packAddr 0xB nnn
  | .rnd x nn => packRI 0xC x nn
  | .drw x y n => packRR 0xD x y n
  | .skp x => packRI 0xE x 0x9E
  | .sknp x => packRI 0xE x 0xA1
  | .getdt x => packRI 0xF x 0x07
  | .waitk x => packRI 0xF x 0x0A
  | .setdt x => packRI 0xF x 0x15
  | .setst x => packRI 0xF x 0x18
  | .addi x => packRI 0xF x 0x1E
  | .font x => packRI 0xF x 0x29
  | .bcd x => packRI 0xF x 0x33
  | .stm x => packRI 0xF x 0x55
  | .ldm x => packRI 0xF x 0x65
  | .nop0 nnn => packAddr 0x0 nnn
  | .nop8 x y n => packRR 0x8 x y n
  | .nope x nn => packRI 0xE x nn
  | .nopf x nn => packRI 0xF x nn

/-- The bytes of an instruction in memory order (R44). -/
def encodeBytes (i : Instr) : List Byte := [highByte (encode i), lowByte (encode i)]

/-! ## The opcode table as data (R66, R69, R71) -/

/-- A row: an opcode `w` matches it when `w AND mask = match`. -/
structure OpcodeRow where
  mnemonic : String
  mask     : Word
  pattern  : Word
  deriving DecidableEq, Repr

def OpcodeRow.selects (r : OpcodeRow) (w : Word) : Bool := w &&& r.mask == r.pattern

/-- Rows CLS to ADD_IMM. -/
def rowsLow : List OpcodeRow :=
  [⟨"CLS", 0xF0FF, 0x00E0⟩, ⟨"RET", 0xF0FF, 0x00EE⟩, ⟨"JP", 0xF000, 0x1000⟩, ⟨"CALL", 0xF000, 0x2000⟩,
   ⟨"SE_IMM", 0xF000, 0x3000⟩, ⟨"SNE_IMM", 0xF000, 0x4000⟩, ⟨"SE_REG", 0xF000, 0x5000⟩,
   ⟨"LD_IMM", 0xF000, 0x6000⟩, ⟨"ADD_IMM", 0xF000, 0x7000⟩]

/-- Rows MOV to SHL. -/
def rowsAlu : List OpcodeRow :=
  [⟨"MOV", 0xF00F, 0x8000⟩, ⟨"OR", 0xF00F, 0x8001⟩, ⟨"AND", 0xF00F, 0x8002⟩, ⟨"XOR", 0xF00F, 0x8003⟩,
   ⟨"ADD", 0xF00F, 0x8004⟩, ⟨"SUB", 0xF00F, 0x8005⟩, ⟨"SHR", 0xF00F, 0x8006⟩, ⟨"SUBN", 0xF00F, 0x8007⟩,
   ⟨"SHL", 0xF00F, 0x800E⟩]

/-- Rows SNE_REG to LDM. -/
def rowsHigh : List OpcodeRow :=
  [⟨"SNE_REG", 0xF000, 0x9000⟩, ⟨"LDI", 0xF000, 0xA000⟩, ⟨"JPV", 0xF000, 0xB000⟩, ⟨"RND", 0xF000, 0xC000⟩,
   ⟨"DRW", 0xF000, 0xD000⟩, ⟨"SKP", 0xF0FF, 0xE09E⟩, ⟨"SKNP", 0xF0FF, 0xE0A1⟩, ⟨"GETDT", 0xF0FF, 0xF007⟩,
   ⟨"WAITK", 0xF0FF, 0xF00A⟩, ⟨"SETDT", 0xF0FF, 0xF015⟩, ⟨"SETST", 0xF0FF, 0xF018⟩, ⟨"ADDI", 0xF0FF, 0xF01E⟩,
   ⟨"FONT", 0xF0FF, 0xF029⟩, ⟨"BCD", 0xF0FF, 0xF033⟩, ⟨"STM", 0xF0FF, 0xF055⟩, ⟨"LDM", 0xF0FF, 0xF065⟩]

/-- The 34 instruction rows (R66), mutually exclusive (R71). -/
def instructionRows : List OpcodeRow := rowsLow ++ rowsAlu ++ rowsHigh

/-- The four no-op rows, which catch what the others of their category did not (R69, R71). -/
def noopRows : List OpcodeRow :=
  [⟨"NOP0", 0xF000, 0x0000⟩, ⟨"NOP8", 0xF000, 0x8000⟩, ⟨"NOPE", 0xF000, 0xE000⟩, ⟨"NOPF", 0xF000, 0xF000⟩]

/-- The table in file order. -/
def opcodeTable : List OpcodeRow := instructionRows ++ noopRows

/-- "Take the rows in file order and select the first" that matches (R71). -/
def firstRow (w : Word) : Option OpcodeRow := opcodeTable.find? (·.selects w)

/-! ## Listings (R72, R73) -/

def hexDigit (n : Nat) : String :=
  String.singleton (if n < 10 then Char.ofNat (48 + n) else Char.ofNat (55 + n))

def hex2 (b : Byte) : String := hexDigit (b.toNat / 16) ++ hexDigit (b.toNat % 16)

def hex3 (a : Addr12) : String := hexDigit (a.toNat / 256) ++ hexDigit (a.toNat / 16 % 16) ++ hexDigit (a.toNat % 16)

/-- A general register is `V0` to `VF` (R72). -/
def regName (x : RegIdx) : String := "V" ++ hexDigit x.toNat

/-- A data word, high byte first (R73). -/
def dataWord (w : Word) : String := "DW " ++ hex2 (highByte w) ++ hex2 (lowByte w)

def asmX (m : String) (x : RegIdx) : String := m ++ " " ++ regName x

def asmXY (m : String) (x y : RegIdx) : String := asmX m x ++ ", " ++ regName y

def asmXNN (m : String) (x : RegIdx) (nn : Byte) : String := asmX m x ++ ", " ++ hex2 nn

def asmNNN (m : String) (nnn : Addr12) : String := m ++ " " ++ hex3 nnn

/-- The listing line of an instruction (R72). R72's syntax has no place for an unexamined field and no name for a no-op,
so a word that is not canonical, or is a no-op, is listed as the data word it is (R73; log 21). -/
def Instr.listing (i : Instr) : String :=
  if i.canonical then
    match i with
    | .cls _ | .ret _ => i.mnemonic
    | .jp nnn | .call nnn | .ldi nnn | .jpv nnn => asmNNN i.mnemonic nnn
    | .seImm x nn | .sneImm x nn | .ldImm x nn | .addImm x nn | .rnd x nn => asmXNN i.mnemonic x nn
    | .seReg x y _ | .sneReg x y _ | .mov x y | .or x y | .and x y | .xor x y | .add x y | .sub x y | .shr x y
    | .subn x y | .shl x y => asmXY i.mnemonic x y
    | .drw x y n => asmXY i.mnemonic x y ++ ", " ++ hexDigit n.toNat
    | .skp x | .sknp x | .getdt x | .waitk x | .setdt x | .setst x | .addi x | .font x | .bcd x | .stm x | .ldm x =>
      asmX i.mnemonic x
    | .nop0 _ | .nop8 _ _ _ | .nope _ _ | .nopf _ _ => dataWord (encode i)
  else dataWord (encode i)

end Sys2Proof
end

