-- ==== Sys2Proof/Machine/State.lean ====
section
/-! DEFINITION. The state of the machine (spec/10_state.md R10 to R34, spec/20_memory.md R40), the ways a cycle can fail
(spec/60_exceptions.md R151), and the state after reset (R33). -/

namespace Sys2Proof.Machine

/-- What an access was, in the `info` of a `MemoryBounds` fault (R151). -/
inductive AccessKind where
  | fetch
  | read
  | write
  deriving DecidableEq, Repr

/-- The causes of R151, each with its `info`. A `raise` puts one of these in the fault record and the step answers the
NEXT state that holds it (R156; notes/assumptions/3.md), so no step of this machine answers `Host.Outcome.fault`:
safe, since no behaviour is left out. -/
inductive Fault where
  /-- Code 1, raised by the fetch, DRW, BCD, STM, LDM: the lowest byte address of the access above 0xFFF, and its kind.
  Safe: the spec's own fault. -/
  | memoryBounds (addr : Nat) (kind : AccessKind)
  /-- Code 2, raised by CALL at depth 16: the value that was to be pushed. Safe: the spec's own fault. -/
  | stackOverflow (value : PcWord)
  /-- Code 3, raised by RET at depth 0. Safe: the spec's own fault. -/
  | stackUnderflow
  /-- Code 4, raised by DRW: the first set pixel off the grid in row-major order. Safe: the spec's own fault. -/
  | displayBounds (x y : Nat)
  /-- Code 5, raised by ADDI: the 17-bit sum. Safe: the spec's own fault. -/
  | indexOverflow (sum : Nat)
  /-- Code 6, raised by nothing (R127). Safe. -/
  | spriteRowAssert
  /-- Code 7, raised by nothing: a register index is a 4-bit field (R10, R151). Safe. -/
  | registerIndex
  deriving DecidableEq, Repr

/-- Why an instruction has no meaning in the model. -/
inductive Refusal where
  /-- Raised only by an arm of `exec` whose instruction is not modelled yet; no arm is. Safe. -/
  | notModelled (mnemonic : String)
  deriving DecidableEq, Repr

/-- The fault record (R27): cause and info together in `cause`, `fault_pc`, and `fault_opcode`, which is `none` for a
fetch fault (R156). -/
structure FaultRecord where
  cause  : Fault
  pc     : PcWord
  opcode : Option Word
  deriving DecidableEq, Repr

/-- The output events (R31, R166). -/
inductive Event where
  /-- DRW, after its flips; the buffer is `State.fb` at that moment. -/
  | present
  /-- CLS, after the buffer is all off. -/
  | clear
  /-- A sound-timer tick that arrives at a non-zero multiple of 30. -/
  | beep
  deriving DecidableEq, Repr

/-- The memory array (R40) in canonical form: the bytes that differ from what an unlisted address reads as, addresses
strictly rising (`Memory.wf`; notes/assumptions/8.md). -/
abbrev Memory := List Host.Cell

/-- The frame buffer (R26): row `y` from the top, and in it bit `x` is column `x` from the left (log 13). -/
abbrev FrameBuffer := Vector (BitVec Config.displayW) Config.displayH

/-- All the state of the machine, with the model's own fields last. -/
structure State where
  /-- `V[0]` to `V[15]` (R10). -/
  v      : Vector Byte Config.numV
  /-- The index register (R14). -/
  I      : IndexWord
  /-- The program counter (R15). -/
  pc     : PcWord
  /-- The call stack, top first, popped entries dropped (R19, R22). -/
  stack  : List PcWord
  /-- The delay timer (R23). -/
  DT     : Byte
  /-- The sound timer (R24). -/
  ST     : Byte
  /-- The frame buffer (R26). -/
  fb     : FrameBuffer
  /-- Memory (R40). -/
  mem    : Memory
  /-- The fault record; the core is halted while it is not `none` (R27, R157). -/
  fault  : Option FaultRecord
  /-- The output events so far, newest first (R31; the model's own: log 11). -/
  events : List Event
  /-- Inputs the host has fixed for the coming cycles (the model's own: log 1). -/
  script : List CycleInputs
  /-- Cycles that have drawn their inputs (the model's own: log 1). -/
  cycles : Nat
  /-- The build switches of R4 (constants of the machine: log 6). -/
  build  : Build
  deriving DecidableEq, Repr

/-- What a meaning answers. -/
abbrev Result := Host.Outcome State Fault Refusal

/-- After reset and before the loader runs (R33, R180). -/
def State.reset : State where
  v      := Vector.replicate Config.numV 0x00
  I      := 0
  pc     := BitVec.ofNat Config.pcWidth Config.progBase
  stack  := []
  DT     := 0x00
  ST     := 0x00
  fb     := Vector.replicate Config.displayH 0
  mem    := []
  fault  := none
  events := []
  script := []
  cycles := 0
  build  := Config.defaultBuild

end Sys2Proof.Machine
end

