-- ==== Sys2Proof/Machine/Memory.lean ====
section
/-! DEFINITION. The memory interface (spec/20_memory.md R41, R44 to R48): byte reads and writes over the canonical list,
and the checked accesses of the machine. -/

namespace Sys2Proof.Machine

/-- What an address that is not listed reads as: reset zero-fills memory (R33). -/
def Memory.unlisted : Byte := 0x00

/-- The canonical form: addresses strictly rising, and no entry equal to what an unlisted address reads as. -/
abbrev Memory.wf (m : Memory) : Prop :=
  m.Pairwise (fun c d => c.1 < d.1) ∧ ∀ c ∈ m, c.2 ≠ Memory.unlisted

/-- Every listed address exists: 0x000 to 0xFFF (R40). -/
abbrev Memory.inSpace (m : Memory) : Prop := ∀ c ∈ m, c.1 < Config.memSize

/-- One byte. -/
def Memory.read : Memory → Nat → Byte
  | [], _ => Memory.unlisted
  | (k, v) :: rest, a => if a = k then v else Memory.read rest a

/-- The cells without address `a`. -/
def Memory.erase (m : Memory) (a : Nat) : Memory := m.filter (fun c => !(c.1 == a))

/-- The cells with `b` at address `a`, in place. -/
def Memory.insert : Memory → Nat → Byte → Memory
  | [], a, b => [(a, b)]
  | (k, v) :: rest, a, b =>
    if a < k then (a, b) :: (k, v) :: rest
    else if a = k then (a, b) :: rest
    else (k, v) :: Memory.insert rest a b

/-- Write one byte, keeping the canonical form. -/
def Memory.write (m : Memory) (a : Nat) (b : Byte) : Memory :=
  if b = Memory.unlisted then Memory.erase m a else Memory.insert m a b

/-- Write consecutive bytes, ascending. -/
def Memory.writeBytes : Memory → Nat → List Byte → Memory
  | m, _, [] => m
  | m, a, b :: bs => Memory.writeBytes (Memory.write m a b) (a + 1) bs

/-- `MemRead` (R46) as a list of bytes, lowest address first: the addresses are checked in ascending order, so the fault
names the lowest one out of range; sums are never wrapped. -/
def Memory.readSpan (m : Memory) (kind : AccessKind) : Nat → Nat → Except Fault (List Byte)
  | _, 0 => .ok []
  | a, n + 1 =>
    if a < Config.memSize then
      match Memory.readSpan m kind (a + 1) n with
      | .ok bs => .ok (Memory.read m a :: bs)
      | .error f => .error f
    else .error (.memoryBounds a kind)

/-- Consecutive byte writes that check ALL their addresses before any is written (R47, R48). -/
def Memory.writeSpan (m : Memory) (a : Nat) (bs : List Byte) : Except Fault Memory :=
  if bs = [] ∨ a + bs.length ≤ Config.memSize then .ok (Memory.writeBytes m a bs)
  else .error (.memoryBounds (max a Config.memSize) .write)

/-- The opcode at `pc` (R44, R60): two bytes, the first one high. -/
def Memory.fetchWord (m : Memory) (pc : PcWord) : Except Fault Word :=
  match Memory.readSpan m .fetch pc.toNat 2 with
  | .ok _ => .ok (joinBytes (Memory.read m pc.toNat) (Memory.read m (pc.toNat + 1)))
  | .error f => .error f

end Sys2Proof.Machine
end

