-- ==== Sys2Proof/Machine/Ops.lean ====
section
/-! DEFINITION. The named operations over the state that the meanings are built from: register access (spec/10_state.md
R10, R11), the program counter (R16), the stack (R20, R21), the frame buffer (spec/43_display.md R120), events (R31),
memory accesses, and raising a fault (spec/60_exceptions.md R156). -/

namespace Sys2Proof.Machine

/-- `VF`, general register 15 (R12). -/
abbrev vF : RegIdx := 15#4

/-! ## Field updates -/

/-- Read `V[x]` (R10). -/
def State.reg (s : State) (x : RegIdx) : Byte := s.v[x.toNat]'x.isLt

/-- Write `V[x]`; the value is already 8 bits (R11). -/
def State.setReg (s : State) (x : RegIdx) (b : Byte) : State := { s with v := s.v.set x.toNat b x.isLt }

def State.setI (s : State) (w : IndexWord) : State := { s with I := w }

/-- Load an absolute value into `pc` (R16). -/
def State.setPc (s : State) (w : PcWord) : State := { s with pc := w }

def State.setStack (s : State) (l : List PcWord) : State := { s with stack := l }

def State.setDT (s : State) (b : Byte) : State := { s with DT := b }

def State.setST (s : State) (b : Byte) : State := { s with ST := b }

def State.setFb (s : State) (f : FrameBuffer) : State := { s with fb := f }

def State.setMem (s : State) (m : Memory) : State := { s with mem := m }

def State.setFault (s : State) (r : FaultRecord) : State := { s with fault := some r }

/-- `emit e` (R31). -/
def State.emit (s : State) (e : Event) : State := { s with events := e :: s.events }

/-! ## The program counter (R16) -/

/-- The fetch advance: delta +2. -/
def State.advance (s : State) : State := s.setPc (s.pc + 2)

/-- Skip the next instruction if `c` holds: delta +2. The condition stands inside the new `pc`, so that every other part
of the state can be evaluated where the condition is a free value. -/
def State.skipIf (s : State) (c : Bool) : State := s.setPc (if c then s.pc + 2 else s.pc)

/-- Re-execute this instruction if `c` holds: delta −2. -/
def State.rewindIf (s : State) (c : Bool) : State := s.setPc (if c then s.pc - 2 else s.pc)

/-! ## Taking a fault (R156 to R160)

There is no handler and no return (R160): the record is written, the core is halted, and only `State.rst` leads out. -/

/-- The codes of R151, the spec's own numbering. -/
def Fault.code : Fault → Nat
  | .memoryBounds _ _ => 1
  | .stackOverflow _ => 2
  | .stackUnderflow => 3
  | .displayBounds _ _ => 4
  | .indexOverflow _ => 5
  | .spriteRowAssert => 6
  | .registerIndex => 7

/-- The fault record is written and nothing else changes (R156). -/
def State.raise (s : State) (f : Fault) (faultPc : PcWord) (opcode : Option Word) : State :=
  s.setFault { cause := f, pc := faultPc, opcode := opcode }

/-- A fault in the execute phase of `i`. `pc` already holds a + 2 (R15), so `fault_pc` is `pc − 2`, and `pc` stays
a + 2 (R158). -/
def raiseIn (i : Instr) (f : Fault) (s : State) : Result :=
  .next (s.raise f (s.pc - 2) (some (encode i)))

/-! ## The call stack -/

/-- The depth counter `sp` (R19). -/
def State.sp (s : State) : Nat := s.stack.length

/-- `push` (R20). -/
def State.push (s : State) (value : PcWord) : Except Fault State :=
  if s.stack.length < Config.stackDepth then .ok (s.setStack (value :: s.stack)) else .error (.stackOverflow value)

/-- `pop` (R21): the popped value and the state without it. -/
def State.pop (s : State) : Except Fault (PcWord × State) :=
  match s.stack with
  | value :: rest => .ok (value, s.setStack rest)
  | [] => .error .stackUnderflow

/-! ## Memory -/

/-- The bytes `V[0]` to `V[n − 1]`, ascending. -/
def State.regBytes (s : State) : Nat → List Byte
  | 0 => []
  | n + 1 => State.regBytes s n ++ [s.reg (BitVec.ofNat 4 n)]

/-- Write `V[k]`, `V[k + 1]`, … from a list of bytes, ascending. -/
def State.setRegsFrom (s : State) : Nat → List Byte → State
  | _, [] => s
  | k, b :: bs => State.setRegsFrom (s.setReg (BitVec.ofNat 4 k) b) (k + 1) bs

/-! ## The display XOR engine (R120) -/

/-- `fb[y][x]`; off the grid there is no pixel, and the answer is `false`. -/
def FrameBuffer.pixel (f : FrameBuffer) (x y : Nat) : Bool :=
  if h : y < Config.displayH then f[y].getLsbD x else false

/-- All pixels off. -/
def FrameBuffer.cleared : FrameBuffer := Vector.replicate Config.displayH 0

/-- `flip(x, y)`, for a pixel of the grid. -/
def FrameBuffer.flip (f : FrameBuffer) (x y : Nat) : FrameBuffer :=
  if h : y < Config.displayH then f.set y (f[y] ^^^ (1#Config.displayW <<< x)) else f

/-- Flip every pixel of a list of (column, row) pairs. -/
def FrameBuffer.flipAll : FrameBuffer → List (Nat × Nat) → FrameBuffer
  | f, [] => f
  | f, (x, y) :: rest => FrameBuffer.flipAll (FrameBuffer.flip f x y) rest

end Sys2Proof.Machine
end

