-- ==== Sys2Proof/Machine/Flags.lean ====
section
/-! DEFINITION. The flag computations (spec/41_alu.md R103, spec/42_index_memory.md R111) and the two orders in which a
result and its flag are written (R90). The sources have been read before, so each takes values, not registers. -/

namespace Sys2Proof.Machine

/-- A flag value, 0 or 1 (R12). -/
def flagByte (c : Bool) : Byte := if c then 1 else 0

/-- ADD: 1 iff the unwrapped sum is at least 255 (R97). -/
def addFlag (a b : Byte) : Byte := flagByte (decide (Config.addCarryThreshold ≤ a.toNat + b.toNat))

/-- SUB and SUBN: 1 iff minuend ≥ subtrahend (R98, R100). -/
def noBorrowFlag (minuend subtrahend : Byte) : Byte := flagByte (decide (subtrahend.toNat ≤ minuend.toNat))

/-- SHR: the bit shifted out, bit 0 (R99). -/
def shrFlag (src : Byte) : Byte := flagByte (src.getLsbD 0)

/-- SHL: the bit shifted out, bit 7 (R101). -/
def shlFlag (src : Byte) : Byte := flagByte (src.getLsbD 7)

/-- ADDI: 1 iff the sum is above 0x1000, strictly (R111). -/
def indexFlag (sum : Nat) : Byte := flagByte (decide (Config.iFlagThreshold < sum))

/-- ADD writes the result, then the flag: with `x = 15` the flag stands (R90). -/
def State.resultThenFlag (s : State) (x : RegIdx) (result flag : Byte) : State :=
  (s.setReg x result).setReg vF flag

/-- SUB, SUBN, SHR, SHL write the flag, then the result: with `x = 15` the result stands (R90). -/
def State.flagThenResult (s : State) (x : RegIdx) (result flag : Byte) : State :=
  (s.setReg vF flag).setReg x result

end Sys2Proof.Machine
end

