-- ==== Sys2Proof/Machine/Operands.lean ====
section
/-! DEFINITION. The operand forms: where an instruction's operands come from (spec/30_encoding.md R64, spec/41_alu.md R99,
R101, spec/40_control_transfer.md R83, spec/42_index_memory.md R112 to R114, spec/43_display.md R123 to R125,
spec/44_keys_timers.md R130, R133). -/

namespace Sys2Proof.Machine

/-- `zext_16(NNN)` where it goes into `pc` (R64). -/
def zextPc (nnn : Addr12) : PcWord := nnn.setWidth Config.pcWidth

/-- `zext_16(NNN)` where it goes into `I` (R64). -/
def zextIndex (nnn : Addr12) : IndexWord := nnn.setWidth Config.iWidth

/-- The inputs of this cycle: what the host has fixed, or the free value of this cycle's number (R29, R30, R167; log 1). -/
def State.inputs (s : State) : CycleInputs :=
  match s.script with
  | c :: _ => c
  | [] => Config.inputAt s.cycles

/-- The key snapshot of this cycle (R29). -/
def State.keys (s : State) : BitVec 16 := s.inputs.keys

/-- The random byte of this cycle (R30). -/
def State.rnd (s : State) : Byte := s.inputs.rnd

/-- "`held = (k ≤ 15) and keys[k] = 1`" for `k = V[X]` (R130): the whole value is the key code. -/
def State.keyHeld (s : State) (x : RegIdx) : Bool :=
  decide ((s.reg x).toNat ≤ 15) && s.keys.getLsbD (s.reg x).toNat

/-- The shift source (R99, R101): `V[X]` when modern, `V[Y]` when legacy. -/
def State.shiftSource (s : State) (x y : RegIdx) : Byte :=
  match s.build.shiftMode with
  | .modern => s.reg x
  | .legacy => s.reg y

/-- The offset register of JPV (R83): `V[0]` when legacy, `V[X]` when modern, `X` the top nibble of `NNN`. -/
def State.jumpOffset (s : State) (nnn : Addr12) : Byte :=
  match s.build.jumpMode with
  | .legacy => s.reg 0
  | .modern => s.reg (nnn.extractLsb' 8 4)

/-- The base of the one addressing mode `I + k` (R113), an unbounded number: the sums are never wrapped. -/
def State.dataBase (s : State) : Nat := s.I.toNat

/-- `0x050 + 5 × (v AND 0x0F)` (R112). -/
def glyphAddress (v : Byte) : IndexWord :=
  BitVec.ofNat Config.iWidth (Config.fontBase + Config.glyphLen * (v.toNat % 16))

/-- The three decimal digits, hundreds first (R114). -/
def bcdDigits (v : Byte) : List Byte :=
  [BitVec.ofNat 8 (v.toNat / 100), BitVec.ofNat 8 (v.toNat / 10 % 10), BitVec.ofNat 8 (v.toNat % 10)]

/-- The start column `V[X] mod 63` (R124). -/
def spriteColumn (v : Byte) : Nat := v.toNat % Config.colModulus

/-- The pixels of one sprite row, columns ascending: bit 7 is the leftmost (R123). -/
def spriteRowPixels (x0 y : Nat) (row : Byte) : List (Nat × Nat) :=
  ((List.range 8).filter (fun k => row.getLsbD (7 - k))).map (fun k => (x0 + k, y))

/-- The set `P` of R123 in row-major order, for the sprite rows `rows` from row `y` down. -/
def spritePixels (x0 : Nat) : Nat → List Byte → List (Nat × Nat)
  | _, [] => []
  | y, row :: rest => spriteRowPixels x0 y row ++ spritePixels x0 (y + 1) rest

/-- Whether a pixel falls outside the 64 by 32 grid (R125). -/
def offGrid (p : Nat × Nat) : Bool := decide (Config.displayW ≤ p.1) || decide (Config.displayH ≤ p.2)

end Sys2Proof.Machine
end

