-- ==== Sys2Proof/Machine/Alu.lean ====
section
/-! DEFINITION. Loads, arithmetic, logic, shifts and the random byte (spec/41_alu.md R90 to R103). 8-bit arithmetic on
`Byte` is modulo 256 (R11). -/

namespace Sys2Proof.Machine

/-- LD_IMM (R91). -/
def execLdImm (x : RegIdx) (nn : Byte) (s : State) : Result := .next (s.setReg x nn)

/-- ADD_IMM (R92): no flag. -/
def execAddImm (x : RegIdx) (nn : Byte) (s : State) : Result := .next (s.setReg x (s.reg x + nn))

/-- MOV (R93). -/
def execMov (x y : RegIdx) (s : State) : Result := .next (s.setReg x (s.reg y))

/-- OR (R94). -/
def execOr (x y : RegIdx) (s : State) : Result := .next (s.setReg x (s.reg x ||| s.reg y))

/-- AND (R95). -/
def execAnd (x y : RegIdx) (s : State) : Result := .next (s.setReg x (s.reg x &&& s.reg y))

/-- XOR (R96). -/
def execXor (x y : RegIdx) (s : State) : Result := .next (s.setReg x (s.reg x ^^^ s.reg y))

/-- ADD (R97). -/
def execAdd (x y : RegIdx) (s : State) : Result :=
  .next (s.resultThenFlag x (s.reg x + s.reg y) (addFlag (s.reg x) (s.reg y)))

/-- SUB (R98). -/
def execSub (x y : RegIdx) (s : State) : Result :=
  .next (s.flagThenResult x (s.reg x - s.reg y) (noBorrowFlag (s.reg x) (s.reg y)))

/-- SHR (R99): a logical shift by one. -/
def execShr (x y : RegIdx) (s : State) : Result :=
  .next (s.flagThenResult x (s.shiftSource x y >>> 1) (shrFlag (s.shiftSource x y)))

/-- SUBN (R100). -/
def execSubn (x y : RegIdx) (s : State) : Result :=
  .next (s.flagThenResult x (s.reg y - s.reg x) (noBorrowFlag (s.reg y) (s.reg x)))

/-- SHL (R101): a shift by one, modulo 256. -/
def execShl (x y : RegIdx) (s : State) : Result :=
  .next (s.flagThenResult x (s.shiftSource x y <<< 1) (shlFlag (s.shiftSource x y)))

/-- RND (R102): the random byte of this cycle ANDed with `NN`. -/
def execRnd (x : RegIdx) (nn : Byte) (s : State) : Result := .next (s.setReg x (s.rnd &&& nn))

end Sys2Proof.Machine
end

