-- ==== Sys2Proof/Machine/Control.lean ====
section
/-! DEFINITION. Control transfer (spec/40_control_transfer.md R80 to R88). `pc` holds a + 2 when a meaning starts. -/

namespace Sys2Proof.Machine

/-- RET (R80): pop into `pc`, with no mask and no check. -/
def execRet (x : RegIdx) (s : State) : Result :=
  match s.pop with
  | .ok (target, s') => .next (s'.setPc target)
  | .error f => raiseIn (.ret x) f s

/-- JP (R81). -/
def execJp (nnn : Addr12) (s : State) : Result := .next (s.setPc (zextPc nnn))

/-- CALL (R82): push a + 2, then jump. -/
def execCall (nnn : Addr12) (s : State) : Result :=
  match s.push s.pc with
  | .ok s' => .next (s'.setPc (zextPc nnn))
  | .error f => raiseIn (.call nnn) f s

/-- JPV (R83): the sum is neither masked nor wrapped (it is at most 0x10FE). -/
def execJpv (nnn : Addr12) (s : State) : Result :=
  .next (s.setPc (zextPc nnn + (s.jumpOffset nnn).setWidth Config.pcWidth))

/-- SE_IMM (R84). -/
def execSeImm (x : RegIdx) (nn : Byte) (s : State) : Result := .next (s.skipIf (s.reg x == nn))

/-- SNE_IMM (R85). -/
def execSneImm (x : RegIdx) (nn : Byte) (s : State) : Result := .next (s.skipIf (s.reg x != nn))

/-- SE_REG (R86); `N` is not examined (R67). -/
def execSeReg (x y : RegIdx) (_n : BitVec 4) (s : State) : Result := .next (s.skipIf (s.reg x == s.reg y))

/-- SNE_REG (R87); `N` is not examined (R67). -/
def execSneReg (x y : RegIdx) (_n : BitVec 4) (s : State) : Result := .next (s.skipIf (s.reg x != s.reg y))

end Sys2Proof.Machine
end

