-- ==== Sys2Proof/Machine/Display.lean ====
section
/-! DEFINITION. Display instructions (spec/43_display.md R122 to R126). -/

namespace Sys2Proof.Machine

/-- CLS (R122). -/
def execCls (_x : RegIdx) (s : State) : Result := .next ((s.setFb FrameBuffer.cleared).emit .clear)

/-- Steps 2 to 4 of R123, once the sprite's rows have been read: check the grid, flip, present. -/
def drawRows (i : Instr) (x0 y0 : Nat) (rows : List Byte) (s : State) : Result :=
  match (spritePixels x0 y0 rows).find? offGrid with
  | some p => raiseIn i (.displayBounds p.1 p.2) s
  | none => .next ((s.setFb (FrameBuffer.flipAll s.fb (spritePixels x0 y0 rows))).emit .present)

/-- DRW (R123): read all `N` rows first; VF is not written (R126). -/
def execDrw (x y : RegIdx) (n : BitVec 4) (s : State) : Result :=
  match Memory.readSpan s.mem .read s.dataBase n.toNat with
  | .ok rows => drawRows (.drw x y n) (spriteColumn (s.reg x)) (s.reg y).toNat rows s
  | .error f => raiseIn (.drw x y n) f s

end Sys2Proof.Machine
end

