-- ==== Sys2Proof/Machine/IndexMemory.lean ====
section
/-! DEFINITION. Index register and memory instructions (spec/42_index_memory.md R110 to R116). A memory instruction
checks all its addresses before it changes anything (spec/20_memory.md R48) and leaves `I` alone (R113). -/

namespace Sys2Proof.Machine

/-- Store bytes from `I` up, for instruction `i` (R113, R48). -/
def storeAtI (i : Instr) (bytes : List Byte) (s : State) : Result :=
  match Memory.writeSpan s.mem s.dataBase bytes with
  | .ok m => .next (s.setMem m)
  | .error f => raiseIn i f s

/-- LDI (R110). -/
def execLdi (nnn : Addr12) (s : State) : Result := .next (s.setI (zextIndex nnn))

/-- ADDI (R111): the sum is not masked; a sum that does not fit `I` (above 0xFFFF) faults. -/
def execAddi (x : RegIdx) (s : State) : Result :=
  if 2 ^ Config.iWidth ≤ s.I.toNat + (s.reg x).toNat then
    raiseIn (.addi x) (.indexOverflow (s.I.toNat + (s.reg x).toNat)) s
  else .next ((s.setI (BitVec.ofNat Config.iWidth (s.I.toNat + (s.reg x).toNat))).setReg vF
    (indexFlag (s.I.toNat + (s.reg x).toNat)))

/-- FONT (R112). -/
def execFont (x : RegIdx) (s : State) : Result := .next (s.setI (glyphAddress (s.reg x)))

/-- BCD (R114). -/
def execBcd (x : RegIdx) (s : State) : Result := storeAtI (.bcd x) (bcdDigits (s.reg x)) s

/-- STM (R115): `X + 1` registers, ascending. -/
def execStm (x : RegIdx) (s : State) : Result := storeAtI (.stm x) (s.regBytes (x.toNat + 1)) s

/-- LDM (R116): `X + 1` registers, ascending. -/
def execLdm (x : RegIdx) (s : State) : Result :=
  match Memory.readSpan s.mem .read s.dataBase (x.toNat + 1) with
  | .ok bytes => .next (s.setRegsFrom 0 bytes)
  | .error f => raiseIn (.ldm x) f s

end Sys2Proof.Machine
end

