-- ==== Sys2Proof/Machine/KeysTimers.lean ====
section
/-! DEFINITION. Key and timer instructions (spec/44_keys_timers.md R130 to R136). -/

namespace Sys2Proof.Machine

/-- SKP (R130). -/
def execSkp (x : RegIdx) (s : State) : Result := .next (s.skipIf (s.keyHeld x))

/-- SKNP (R131). -/
def execSknp (x : RegIdx) (s : State) : Result := .next (s.skipIf (!s.keyHeld x))

/-- GETDT (R132). -/
def execGetdt (x : RegIdx) (s : State) : Result := .next (s.setReg x s.DT)

/-- WAITK (R133): re-execute while no key is held; no register is written, ever. -/
def execWaitk (_x : RegIdx) (s : State) : Result := .next (s.rewindIf (s.keys == 0))

/-- SETDT (R134). -/
def execSetdt (x : RegIdx) (s : State) : Result := .next (s.setDT (s.reg x))

/-- SETST (R135): the write itself emits no `Beep`. -/
def execSetst (x : RegIdx) (s : State) : Result := .next (s.setST (s.reg x))

end Sys2Proof.Machine
end

