-- ==== Sys2Proof/Machine/Noops.lean ====
section
/-! DEFINITION. The unlisted encodings (spec/45_noops.md R140 to R144): successful instructions whose only effect is the
fetch advance, which the cycle has already made. -/

namespace Sys2Proof.Machine

/-- NOP0 (R140). -/
def execNop0 (_nnn : Addr12) (s : State) : Result := .next s

/-- NOP8 (R141). -/
def execNop8 (_x _y : RegIdx) (_n : BitVec 4) (s : State) : Result := .next s

/-- NOPE (R142): `keys` is not consulted. -/
def execNope (_x : RegIdx) (_nn : Byte) (s : State) : Result := .next s

/-- NOPF (R143). -/
def execNopf (_x : RegIdx) (_nn : Byte) (s : State) : Result := .next s

end Sys2Proof.Machine
end

