-- ==== Sys2Proof/Machine/Dispatch.lean ====
section
/-! DEFINITION. The execute phase (spec/30_encoding.md R60, R65): one arm per instruction. -/

namespace Sys2Proof.Machine

def exec (i : Instr) (s : State) : Host.Outcome State Fault Refusal :=
  match i with
  | .cls x => Sys2Proof.Machine.execCls x s
  | .ret x => Sys2Proof.Machine.execRet x s
  | .jp nnn => Sys2Proof.Machine.execJp nnn s
  | .call nnn => Sys2Proof.Machine.execCall nnn s
  | .seImm x nn => Sys2Proof.Machine.execSeImm x nn s
  | .sneImm x nn => Sys2Proof.Machine.execSneImm x nn s
  | .seReg x y n => Sys2Proof.Machine.execSeReg x y n s
  | .ldImm x nn => Sys2Proof.Machine.execLdImm x nn s
  | .addImm x nn => Sys2Proof.Machine.execAddImm x nn s
  | .mov x y => Sys2Proof.Machine.execMov x y s
  | .or x y => Sys2Proof.Machine.execOr x y s
  | .and x y => Sys2Proof.Machine.execAnd x y s
  | .xor x y => Sys2Proof.Machine.execXor x y s
  | .add x y => Sys2Proof.Machine.execAdd x y s
  | .sub x y => Sys2Proof.Machine.execSub x y s
  | .shr x y => Sys2Proof.Machine.execShr x y s
  | .subn x y => Sys2Proof.Machine.execSubn x y s
  | .shl x y => Sys2Proof.Machine.execShl x y s
  | .sneReg x y n => Sys2Proof.Machine.execSneReg x y n s
  | .ldi nnn => Sys2Proof.Machine.execLdi nnn s
  | .jpv nnn => Sys2Proof.Machine.execJpv nnn s
  | .rnd x nn => Sys2Proof.Machine.execRnd x nn s
  | .drw x y n => Sys2Proof.Machine.execDrw x y n s
  | .skp x => Sys2Proof.Machine.execSkp x s
  | .sknp x => Sys2Proof.Machine.execSknp x s
  | .getdt x => Sys2Proof.Machine.execGetdt x s
  | .waitk x => Sys2Proof.Machine.execWaitk x s
  | .setdt x => Sys2Proof.Machine.execSetdt x s
  | .setst x => Sys2Proof.Machine.execSetst x s
  | .addi x => Sys2Proof.Machine.execAddi x s
  | .font x => Sys2Proof.Machine.execFont x s
  | .bcd x => Sys2Proof.Machine.execBcd x s
  | .stm x => Sys2Proof.Machine.execStm x s
  | .ldm x => Sys2Proof.Machine.execLdm x s
  | .nop0 nnn => Sys2Proof.Machine.execNop0 nnn s
  | .nop8 x y n => Sys2Proof.Machine.execNop8 x y n s
  | .nope x nn => Sys2Proof.Machine.execNope x nn s
  | .nopf x nn => Sys2Proof.Machine.execNopf x nn s

end Sys2Proof.Machine
end

