-- ==== Sys2Proof/Machine/Timers.lean ====
section
/-! DEFINITION. The timer agent (spec/60_exceptions.md R164 to R169) and what happens between two cycles (R167, R170).
A run of ticks is written field by field, so that everything but the timers and the event trace can be evaluated even
where the number of ticks is a free value. -/

namespace Sys2Proof.Machine

/-- One decrement, holding at zero (R165). -/
def countDown (t : Byte) : Byte := if t = 0 then 0 else t - 1

/-- The events of one `TickST` from sound-timer value `t`: a `Beep` on arriving at a non-zero multiple of 30 (R166). -/
def tickEvents (t : Byte) : List Event :=
  if t ≠ 0 ∧ countDown t ≠ 0 ∧ (countDown t).toNat % Config.beepDivisor = 0 then [.beep] else []

/-- `k` decrements, one at a time (R168). -/
def countDownBy : Nat → Byte → Byte
  | 0, t => t
  | k + 1, t => countDownBy k (countDown t)

/-- The events of `k` ticks of the sound timer, newest first. -/
def beepsBy : Nat → Byte → List Event
  | 0, _ => []
  | k + 1, t => beepsBy k (countDown t) ++ tickEvents t

/-- `TickDT` (R165); none while the core is halted (R157). -/
def tickDT (s : State) : State :=
  match s.fault with
  | some _ => s
  | none => s.setDT (countDown s.DT)

/-- `TickST` (R166); none while the core is halted (R157). -/
def tickST (s : State) : State :=
  match s.fault with
  | some _ => s
  | none => { s with ST := countDown s.ST, events := tickEvents s.ST ++ s.events }

/-- `kdt` ticks of the delay timer and `kst` of the sound timer, in a core that is not halted: the ticks between two
cycles commute, and only the two counts matter (R167). -/
def runTicks (kdt kst : Nat) (s : State) : State :=
  { s with DT := countDownBy kdt s.DT, ST := countDownBy kst s.ST, events := beepsBy kst s.ST ++ s.events }

/-- The inputs of the cycle just run are spent: the next cycle has its own (R29, R30; log 1). -/
def spendInputs (s : State) : State := { s with script := s.script.tail, cycles := s.cycles + 1 }

/-- From the end of a cycle to the start of the next one: the ticks that fall there, then fresh inputs. A cycle that
raised a fault is followed by nothing (R156, R157). -/
def betweenCycles (s : State) : State :=
  match s.fault with
  | some _ => s
  | none => spendInputs (runTicks s.inputs.ticksDT s.inputs.ticksST s)

end Sys2Proof.Machine
end

