-- ==== Sys2Proof/Machine/Cycle.lean ====
section
/-! DEFINITION. The cycle (spec/30_encoding.md R60), the halted state (spec/60_exceptions.md R157), and placing an opcode
where the next fetch reads it. -/

namespace Sys2Proof.Machine

/-- Fetch, advance `pc` by 2, decode, execute. A fetch fault happens before the advance (R158) and has no opcode (R156). -/
def cycle (s : State) : Result :=
  match Memory.fetchWord s.mem s.pc with
  | .error f => .next (s.raise f s.pc none)
  | .ok w => exec (decodeWord w) s.advance

/-- What follows a cycle, whatever its outcome. -/
def afterCycle : Result → Result
  | .next t => .next (betweenCycles t)
  | .fault r => .fault r
  | .refused r => .refused r

/-- One request of the host (R170): a halted core does nothing (R157); otherwise one cycle, and then whatever ticks
fall before the next one (R167). -/
def requestCycle (s : State) : Result :=
  match s.fault with
  | some _ => .next s
  | none => afterCycle (cycle s)

/-- An opcode's two bytes stored at `pc` and `pc + 1`, high byte first (R44); where no fetch can succeed (R152) there is
no such place and nothing is stored. -/
def storeOpcodeAtPc (s : State) (w : Word) : State :=
  if s.pc.toNat + 2 ≤ Config.memSize then
    s.setMem (Memory.writeBytes s.mem s.pc.toNat [highByte w, lowByte w])
  else s

end Sys2Proof.Machine
end

