-- ==== Sys2Proof/Machine/Step.lean ====
section
/-! DEFINITION. The step of the machine. -/

namespace Sys2Proof.Machine

/-- One step: one requested cycle with the ticks that follow it (notes/assumptions/2.md). -/
def step : State → Host.Outcome State Fault Refusal := requestCycle

/-- `s` with the instruction whose bits are `w`, as spec/opcode_table.json numbers them, where `step` fetches next: its
two bytes at `pc` and `pc + 1` (R44); the bits from `nbits` on are 0. -/
def State.withFetchWord (s : State) (nbits w : Nat) : State :=
  storeOpcodeAtPc s (BitVec.ofNat 16 (w % 2 ^ nbits))

end Sys2Proof.Machine
end

