-- ==== Sys2Proof/Machine/Loader.lean ====
section
/-! DEFINITION. What the host does to the machine before the first cycle: reset (spec/70_reset_and_hazards.md R180, R181),
the loader port (spec/10_state.md R28) and the boot load (R182 to R184). -/

namespace Sys2Proof.Machine

/-- `rst`: every piece of the spec's state at its reset value. The build switches are not touched and the inputs have no
reset value (R181), so the model's fields for them are kept; the event trace starts again (log 18). -/
def State.rst (s : State) : State :=
  { State.reset with build := s.build, script := s.script, cycles := s.cycles }

/-- The loader port writes one byte: `ld_addr` is 12 bits, `ld_data` 8 (R28). -/
def State.loadByte (s : State) (a : Addr12) (b : Byte) : State := s.setMem (Memory.write s.mem a.toNat b)

/-- The loader port writes consecutive bytes. -/
def State.loadBytes (s : State) (base : Nat) (bytes : List Byte) : State :=
  s.setMem (Memory.writeBytes s.mem base bytes)

/-- Why the loader refuses an image, so that the core is never started on it (R183). -/
inductive LoadError where
  /-- More than `PROG_MAX_LEN` bytes. -/
  | imageTooLong (length : Nat)
  deriving DecidableEq, Repr

/-- Boot (R182): from reset, the font at 0x050 and the image verbatim at 0x200. `FONT` is open (R184): an argument. -/
def boot (s : State) (font : Vector Byte Config.fontLen) (image : List Byte) : Except LoadError State :=
  if image.length ≤ Config.progMaxLen then
    .ok ((s.rst.loadBytes Config.fontBase font.toList).loadBytes Config.progBase image)
  else .error (.imageTooLong image.length)

end Sys2Proof.Machine
end

