-- ==== Sys2Proof/Safety.lean ====
section
/-! DEFINITION. The terms claims are made in: which parts of the state an instruction may change (the frame), the
invariant of every run, the halted and the settled state. -/

namespace Sys2Proof.Machine

/-! ## Frames -/

/-- The parts of the state. -/
inductive Part where
  | regs | I | pc | stack | DT | ST | fb | mem | fault | events | inputs | build
  deriving DecidableEq, Repr

/-- A part is the same in two states: registers, memory and frame buffer as they read. -/
def Same : Part → State → State → Prop
  | .regs, s, t => ∀ r, t.reg r = s.reg r
  | .I, s, t => t.I = s.I
  | .pc, s, t => t.pc = s.pc
  | .stack, s, t => t.stack = s.stack
  | .DT, s, t => t.DT = s.DT
  | .ST, s, t => t.ST = s.ST
  | .fb, s, t => ∀ x y, t.fb.pixel x y = s.fb.pixel x y
  | .mem, s, t => ∀ a, Memory.read t.mem a = Memory.read s.mem a
  | .fault, s, t => t.fault = s.fault
  | .events, s, t => t.events = s.events
  | .inputs, s, t => t.script = s.script ∧ t.cycles = s.cycles
  | .build, s, t => t.build = s.build

/-- Every part but the listed ones is the same. -/
def UnchangedBut (changed : List Part) (s t : State) : Prop := ∀ p, p ∉ changed → Same p s t

end Sys2Proof.Machine

namespace Sys2Proof

open Machine

/-- The parts an instruction may change in its execute phase, from the rules R80 to R87, R91 to R102, R110 to R116, R122,
R123, R130 to R135, R140 to R143. A part that only a fault changes is listed too. -/
def Instr.mayChange : Instr → List Part
  | .cls _ => [.fb, .events]
  | .ret _ | .call _ => [.stack, .pc, .fault]
  | .jp _ | .jpv _ | .seImm _ _ | .sneImm _ _ | .seReg _ _ _ | .sneReg _ _ _ | .skp _ | .sknp _ | .waitk _ => [.pc]
  | .ldImm _ _ | .addImm _ _ | .mov _ _ | .or _ _ | .and _ _ | .xor _ _ | .add _ _ | .sub _ _ | .shr _ _ | .subn _ _
  | .shl _ _ | .rnd _ _ | .getdt _ => [.regs]
  | .ldi _ | .font _ => [.I]
  | .addi _ => [.I, .regs, .fault]
  | .bcd _ | .stm _ => [.mem, .fault]
  | .ldm _ => [.regs, .fault]
  | .drw _ _ _ => [.fb, .events, .fault]
  | .setdt _ => [.DT]
  | .setst _ => [.ST]
  | .nop0 _ | .nop8 _ _ _ | .nope _ _ | .nopf _ _ => []

/-- The general registers an instruction writes (R13): `V[X]`, `V[15]` as the flag, `V[0]` to `V[X]` for LDM. -/
def Instr.writesReg : Instr → RegIdx → Bool
  | .ldImm x _, r | .addImm x _, r | .mov x _, r | .or x _, r | .and x _, r | .xor x _, r | .rnd x _, r
  | .getdt x, r => r == x
  | .add x _, r | .sub x _, r | .shr x _, r | .subn x _, r | .shl x _, r => r == x || r == vF
  | .addi _, r => r == vF
  | .ldm x, r => decide (r.toNat ≤ x.toNat)
  | .cls _, _ | .ret _, _ | .call _, _ | .jp _, _ | .jpv _, _ | .seImm _ _, _ | .sneImm _ _, _ | .seReg _ _ _, _
  | .sneReg _ _ _, _ | .skp _, _ | .sknp _, _ | .waitk _, _ | .ldi _, _ | .font _, _ | .bcd _, _ | .stm _, _
  | .drw _ _ _, _ | .setdt _, _ | .setst _, _ | .nop0 _, _ | .nop8 _ _ _, _ | .nope _ _, _ | .nopf _ _, _ => false

/-- How many bytes an instruction stores from `I` up (R41, R43): only BCD and STM store. -/
def Instr.storeCount : Instr → Nat
  | .bcd _ => 3
  | .stm x => x.toNat + 1
  | .cls _ | .ret _ | .call _ | .jp _ | .jpv _ | .seImm _ _ | .sneImm _ _ | .seReg _ _ _ | .sneReg _ _ _ | .skp _
  | .sknp _ | .waitk _ | .ldImm _ _ | .addImm _ _ | .mov _ _ | .or _ _ | .and _ _ | .xor _ _ | .add _ _ | .sub _ _
  | .shr _ _ | .subn _ _ | .shl _ _ | .rnd _ _ | .getdt _ | .ldi _ | .font _ | .addi _ | .ldm _ | .drw _ _ _
  | .setdt _ | .setst _ | .nop0 _ | .nop8 _ _ _ | .nope _ _ | .nopf _ _ => 0

/-- Whether address `a` is one of the bytes instruction `i` stores to in state `s`; the base is the one the meanings use. -/
def Instr.stores (i : Instr) (s : State) (a : Nat) : Prop := s.dataBase ≤ a ∧ a < s.dataBase + i.storeCount

end Sys2Proof

namespace Sys2Proof.Machine

/-! ## Runs -/

/-- The halted state (R157). -/
def State.halted (s : State) : Prop := s.fault ≠ none

/-- The settled state of R190: no fault, and a jump to itself at `pc`. -/
def State.settled (s : State) : Prop :=
  s.fault = none ∧ s.pc.toNat ≤ 0xFFE ∧
  (Memory.read s.mem s.pc.toNat).toNat = 0x10 ||| (s.pc.toNat >>> 8) ∧
  (Memory.read s.mem (s.pc.toNat + 1)).toNat = s.pc.toNat &&& 0xFF

/-- The same execution repeated `k` times (without the fetch), stopping at the first fault or refusal. -/
def execTimes (i : Instr) : Nat → State → Result
  | 0, s => .next s
  | k + 1, s =>
    match exec i s with
    | .next t => execTimes i k t
    | .fault r => .fault r
    | .refused r => .refused r

/-! ## The invariant -/

/-- The causes a raise of this machine can have (R151): not `SpriteRowAssert` (R127), not `RegisterIndex` (R10). -/
def Fault.canOccur : Fault → Bool
  | .memoryBounds _ _ | .stackOverflow _ | .stackUnderflow | .displayBounds _ _ | .indexOverflow _ => true
  | .spriteRowAssert | .registerIndex => false

/-- Whether a cause is that of a fetch fault, which has no opcode (R156). -/
def Fault.isFetch : Fault → Bool
  | .memoryBounds _ .fetch => true
  | .memoryBounds _ .read | .memoryBounds _ .write | .stackOverflow _ | .stackUnderflow | .displayBounds _ _
  | .indexOverflow _ | .spriteRowAssert | .registerIndex => false

/-- A fault record fits the halted state's `pc` (R158): a fetch fault leaves `pc = fault_pc` and has no opcode, an execute
fault leaves `pc = fault_pc + 2` and has one. -/
def FaultRecord.fits (r : FaultRecord) (pc : PcWord) : Prop :=
  r.cause.canOccur = true ∧
  match r.opcode with
  | none => r.cause.isFetch = true ∧ pc = r.pc
  | some _ => r.cause.isFetch = false ∧ pc = r.pc + 2

/-- What holds of every state of a run. -/
structure Inv (s : State) : Prop where
  /-- R17: `pc` never exceeds 0x10FE. -/
  pcBound : s.pc.toNat ≤ 0x10FE
  /-- R19: at most 16 entries. -/
  depth : s.stack.length ≤ Config.stackDepth
  /-- R17: a return address is at most 0x1000. -/
  returns : ∀ r ∈ s.stack, r.toNat ≤ 0x1000
  /-- The memory list keeps its canonical form. -/
  memWf : Memory.wf s.mem
  /-- R40: no byte outside 0x000 to 0xFFF. -/
  memInSpace : Memory.inSpace s.mem
  /-- R156, R158. -/
  faultFits : ∀ r, s.fault = some r → r.fits s.pc

end Sys2Proof.Machine
end

