-- ==== Sys2Proof/Certificates/Slice0/Obligations.lean ====
section
/-! DEFINITION. What the model is claimed to do, stated for the provers. Each statement's docstring names the rules of
spec/ it comes from. `pc` in a statement about `exec` is the advanced one, a + 2 (R15). -/

namespace Sys2Proof.Claims

open Sys2Proof.Machine

/-- The record an execute fault of `i` leaves (R156): `fault_pc` is a, that is `pc − 2`. -/
def faultIn (i : Instr) (f : Fault) (s : State) : Option FaultRecord :=
  some { cause := f, pc := s.pc - 2, opcode := some (encode i) }

/-- Bit `k` from the left in row `r` of the sprite at `I` (R123). -/
def spriteBit (s : State) (r k : Nat) : Bool := (Memory.read s.mem (s.dataBase + r)).getLsbD (7 - k)

/-- Off the 64 by 32 grid (R125). -/
def offScreen (x y : Nat) : Prop := 63 < x ∨ 31 < y

/-- (r, k) comes before (r', k') in row-major order (R125). -/
def before (r k r' k' : Nat) : Prop := r < r' ∨ (r = r' ∧ k < k')

/-- The opcode whose bytes stand at `pc` (R44). -/
def opcodeAt (s : State) (pc : PcWord) : Word :=
  joinBytes (Memory.read s.mem pc.toNat) (Memory.read s.mem (pc.toNat + 1))

/-- A word of one of the four no-op sets, by the numbers of R69: the category is the top digit, `NN` the low byte, `N`
the low digit. -/
def unlistedWord (w : Word) : Prop :=
  (w.toNat / 4096 = 0x0 ∧ w.toNat % 256 ∉ [0xE0, 0xEE]) ∨
  (w.toNat / 4096 = 0x8 ∧ w.toNat % 16 ∈ [0x8, 0x9, 0xA, 0xB, 0xC, 0xD, 0xF]) ∨
  (w.toNat / 4096 = 0xE ∧ w.toNat % 256 ∉ [0x9E, 0xA1]) ∨
  (w.toNat / 4096 = 0xF ∧ w.toNat % 256 ∉ [0x07, 0x0A, 0x15, 0x18, 0x1E, 0x29, 0x33, 0x55, 0x65])

end Sys2Proof.Claims

section

open Sys2Proof Sys2Proof.Machine Sys2Proof.Claims

/-! ## Encoding -/

/-- R62, R65, R66, R69: no bit of an encoding is dropped. The encoder and the terms that keep an unexamined field are the
model's own (log 9). -/
def Obligations.DecodeOfEncodeReturnsTheInstruction : Prop :=
  ∀ i : Instr, i.wf = true → decodeWord (encode i) = i

/-- R70: every word is an instruction, and only one: from the instruction the word can be had back (log 9). -/
def Obligations.EveryWordIsOneWellFormedInstruction : Prop :=
  ∀ w : Word, (decodeWord w).wf = true ∧ encode (decodeWord w) = w

/-- R71, R66, R69: the nested dispatch and the table give the same answer. -/
def Obligations.DecoderSelectsTheFirstMatchingRow : Prop :=
  ∀ w : Word, (firstRow w).map (·.mnemonic) = some (decodeWord w).mnemonic

/-- R71: the 34 instruction rows are mutually exclusive. -/
def Obligations.InstructionRowsAreMutuallyExclusive : Prop :=
  instructionRows.length = 34 ∧
  instructionRows.Pairwise (fun r q => ∀ w : Word, ¬(r.selects w = true ∧ q.selects w = true))

/-- Words written out digit by digit from the patterns of R66 and R69, one of each format and each no-op set. -/
def Obligations.WordsWrittenOutFromThePatternsDecode : Prop :=
  decodeWord 0x00E0 = .cls 0x0 ∧ decodeWord 0x0AEE = .ret 0xA ∧ decodeWord 0x1234 = .jp 0x234 ∧
  decodeWord 0x332A = .seImm 0x3 0x2A ∧ decodeWord 0x5127 = .seReg 0x1 0x2 0x7 ∧ decodeWord 0x812E = .shl 0x1 0x2 ∧
  decodeWord 0xD012 = .drw 0x0 0x1 0x2 ∧ decodeWord 0xE4A1 = .sknp 0x4 ∧ decodeWord 0xF265 = .ldm 0x2 ∧
  decodeWord 0x0123 = .nop0 0x123 ∧ decodeWord 0x812F = .nop8 0x1 0x2 0xF ∧ decodeWord 0xE19F = .nope 0x1 0x9F ∧
  decodeWord 0xF130 = .nopf 0x1 0x30

/-- R69: a word of one of the four no-op sets, whatever it is, does nothing in its execute phase. -/
def Obligations.UnlistedWordsExecuteAsNoops : Prop :=
  ∀ (w : Word) (s : State), unlistedWord w → exec (decodeWord w) s = .next s

/-- R140 to R143: the four no-op instructions complete in every state and change nothing. Those rules speak of the
unlisted combinations; that a term which holds a listed one, which the decoder never gives, runs as a no-op too is the
model's choice (log 24). -/
def Obligations.NoopInstructionsChangeNothing : Prop :=
  ∀ (nnn : Addr12) (x y : RegIdx) (n : BitVec 4) (nn : Byte) (s : State),
    exec (.nop0 nnn) s = .next s ∧ exec (.nop8 x y n) s = .next s ∧
    exec (.nope x nn) s = .next s ∧ exec (.nopf x nn) s = .next s

/-! ## Control transfer -/

/-- R80, R21: RET, for every value of its unexamined field (R68). -/
def Obligations.ReturnPopsTheStackOrUnderflows : Prop :=
  ∀ (x : RegIdx) (s : State),
    (∀ (a : PcWord) (rest : List PcWord), s.stack = a :: rest →
      ∃ t, exec (.ret x) s = .next t ∧ t.pc = a ∧ t.stack = rest ∧ UnchangedBut [.pc, .stack] s t) ∧
    (s.stack = [] →
      ∃ t, exec (.ret x) s = .next t ∧ t.fault = faultIn (.ret x) .stackUnderflow s ∧ UnchangedBut [.fault] s t)

/-- R81, R83: JP, and JPV in both jump modes; the sum is not reduced. -/
def Obligations.JumpsLoadTheProgramCounter : Prop :=
  ∀ (nnn : Addr12) (s : State),
    (∃ t, exec (.jp nnn) s = .next t ∧ t.pc.toNat = nnn.toNat ∧ UnchangedBut [.pc] s t) ∧
    (∃ t, exec (.jpv nnn) s = .next t ∧ UnchangedBut [.pc] s t ∧
      (s.build.jumpMode = .legacy → t.pc.toNat = nnn.toNat + (s.reg 0).toNat) ∧
      (s.build.jumpMode = .modern → t.pc.toNat = nnn.toNat + (s.reg (BitVec.ofNat 4 (nnn.toNat / 256))).toNat))

/-- R82, R20: CALL below depth 16 and at it. -/
def Obligations.CallPushesTheReturnAddressOrOverflows : Prop :=
  ∀ (nnn : Addr12) (s : State),
    (s.sp < 16 →
      ∃ t, exec (.call nnn) s = .next t ∧ t.pc.toNat = nnn.toNat ∧ t.stack = s.pc :: s.stack ∧
        UnchangedBut [.pc, .stack] s t) ∧
    (16 ≤ s.sp →
      ∃ t, exec (.call nnn) s = .next t ∧ t.fault = faultIn (.call nnn) (.stackOverflow s.pc) s ∧
        UnchangedBut [.fault] s t)

/-- R80's test: a call and then a return restore `pc` and the stack, whatever the callee did to the other parts. -/
def Obligations.CallThenReturnRestoresTheProgramCounter : Prop :=
  ∀ (nnn : Addr12) (x : RegIdx) (s t u : State), s.sp < 16 → exec (.call nnn) s = .next t → u.stack = t.stack →
    ∃ w, exec (.ret x) u = .next w ∧ w.pc = s.pc ∧ w.stack = s.stack

/-- R84 to R87: the four skips, for every value of the unexamined field `n` (R67). -/
def Obligations.SkipsCompareRegistersAndImmediates : Prop :=
  ∀ (x y : RegIdx) (n : BitVec 4) (nn : Byte) (s : State),
    (∃ t, exec (.seImm x nn) s = .next t ∧ t.pc = (if s.reg x = nn then s.pc + 2 else s.pc) ∧
      UnchangedBut [.pc] s t) ∧
    (∃ t, exec (.sneImm x nn) s = .next t ∧ t.pc = (if s.reg x = nn then s.pc else s.pc + 2) ∧
      UnchangedBut [.pc] s t) ∧
    (∃ t, exec (.seReg x y n) s = .next t ∧ t.pc = (if s.reg x = s.reg y then s.pc + 2 else s.pc) ∧
      UnchangedBut [.pc] s t) ∧
    (∃ t, exec (.sneReg x y n) s = .next t ∧ t.pc = (if s.reg x = s.reg y then s.pc else s.pc + 2) ∧
      UnchangedBut [.pc] s t)

/-! ## Loads, arithmetic, logic, shifts -/

/-- R91, R93, R102, R132: the instructions that put a value into `V[X]` and touch no flag. The random byte is the input of
this cycle, any value (R30). -/
def Obligations.LoadsWriteOnlyTheDestination : Prop :=
  ∀ (x y : RegIdx) (nn : Byte) (s : State),
    (∃ t, exec (.ldImm x nn) s = .next t ∧ t.reg x = nn ∧ (∀ r, r ≠ x → t.reg r = s.reg r) ∧
      UnchangedBut [.regs] s t) ∧
    (∃ t, exec (.mov x y) s = .next t ∧ t.reg x = s.reg y ∧ (∀ r, r ≠ x → t.reg r = s.reg r) ∧
      UnchangedBut [.regs] s t) ∧
    (∃ t, exec (.rnd x nn) s = .next t ∧ t.reg x = s.rnd &&& nn ∧ (∀ r, r ≠ x → t.reg r = s.reg r) ∧
      UnchangedBut [.regs] s t) ∧
    (∃ t, exec (.getdt x) s = .next t ∧ t.reg x = s.DT ∧ (∀ r, r ≠ x → t.reg r = s.reg r) ∧
      UnchangedBut [.regs] s t)

/-- R92: ADD_IMM wraps modulo 256 and writes no flag. -/
def Obligations.AddImmediateWrapsAndWritesNoFlag : Prop :=
  ∀ (x : RegIdx) (nn : Byte) (s : State),
    ∃ t, exec (.addImm x nn) s = .next t ∧ (t.reg x).toNat = ((s.reg x).toNat + nn.toNat) % 256 ∧
      (∀ r, r ≠ x → t.reg r = s.reg r) ∧ UnchangedBut [.regs] s t

/-- R92's test: `k` times adds k·NN modulo 256. -/
def Obligations.AddImmediateRepeatedAddsTheMultiple : Prop :=
  ∀ (k : Nat) (x : RegIdx) (nn : Byte) (s : State),
    ∃ t, execTimes (.addImm x nn) k s = .next t ∧ (t.reg x).toNat = ((s.reg x).toNat + k * nn.toNat) % 256 ∧
      (∀ r, r ≠ x → t.reg r = s.reg r) ∧ UnchangedBut [.regs] s t

/-- R94 to R96: the logic instructions bit by bit; VF is not written (unless `x` is 15). -/
def Obligations.LogicWorksBitByBit : Prop :=
  ∀ (x y : RegIdx) (s : State),
    (∃ t, exec (.or x y) s = .next t ∧
      (∀ k, (t.reg x).getLsbD k = ((s.reg x).getLsbD k || (s.reg y).getLsbD k)) ∧
      (∀ r, r ≠ x → t.reg r = s.reg r) ∧ UnchangedBut [.regs] s t) ∧
    (∃ t, exec (.and x y) s = .next t ∧
      (∀ k, (t.reg x).getLsbD k = ((s.reg x).getLsbD k && (s.reg y).getLsbD k)) ∧
      (∀ r, r ≠ x → t.reg r = s.reg r) ∧ UnchangedBut [.regs] s t) ∧
    (∃ t, exec (.xor x y) s = .next t ∧
      (∀ k, (t.reg x).getLsbD k = ((s.reg x).getLsbD k ^^ (s.reg y).getLsbD k)) ∧
      (∀ r, r ≠ x → t.reg r = s.reg r) ∧ UnchangedBut [.regs] s t)

/-- R97: ADD; with `x = 15` the flag stands. -/
def Obligations.AddWritesTheSumAndTheThresholdFlag : Prop :=
  ∀ (x y : RegIdx) (s : State),
    ∃ t, exec (.add x y) s = .next t ∧
      (x ≠ vF → (t.reg x).toNat = ((s.reg x).toNat + (s.reg y).toNat) % 256) ∧
      (t.reg vF).toNat = (if 255 ≤ (s.reg x).toNat + (s.reg y).toNat then 1 else 0) ∧
      (∀ r, r ≠ x → r ≠ vF → t.reg r = s.reg r) ∧ UnchangedBut [.regs] s t

/-- R98, R100: SUB and SUBN; with `x = 15` the difference stands. -/
def Obligations.SubtractionsWriteTheDifferenceAndNoBorrow : Prop :=
  ∀ (x y : RegIdx) (s : State),
    (∃ t, exec (.sub x y) s = .next t ∧
      (t.reg x).toNat = ((s.reg x).toNat + 256 - (s.reg y).toNat) % 256 ∧
      (x ≠ vF → (t.reg vF).toNat = (if (s.reg y).toNat ≤ (s.reg x).toNat then 1 else 0)) ∧
      (∀ r, r ≠ x → r ≠ vF → t.reg r = s.reg r) ∧ UnchangedBut [.regs] s t) ∧
    (∃ t, exec (.subn x y) s = .next t ∧
      (t.reg x).toNat = ((s.reg y).toNat + 256 - (s.reg x).toNat) % 256 ∧
      (x ≠ vF → (t.reg vF).toNat = (if (s.reg x).toNat ≤ (s.reg y).toNat then 1 else 0)) ∧
      (∀ r, r ≠ x → r ≠ vF → t.reg r = s.reg r) ∧ UnchangedBut [.regs] s t)

/-- R99, R101: SHR and SHL in both shift modes; with `x = 15` the shifted value stands. -/
def Obligations.ShiftsWriteTheShiftedValueAndTheBitOut : Prop :=
  ∀ (x y : RegIdx) (s : State) (src : Byte),
    src = (if s.build.shiftMode = .modern then s.reg x else s.reg y) →
    (∃ t, exec (.shr x y) s = .next t ∧ (t.reg x).toNat = src.toNat / 2 ∧
      (x ≠ vF → (t.reg vF).toNat = src.toNat % 2) ∧
      (∀ r, r ≠ x → r ≠ vF → t.reg r = s.reg r) ∧ UnchangedBut [.regs] s t) ∧
    (∃ t, exec (.shl x y) s = .next t ∧ (t.reg x).toNat = src.toNat * 2 % 256 ∧
      (x ≠ vF → (t.reg vF).toNat = src.toNat / 128) ∧
      (∀ r, r ≠ x → r ≠ vF → t.reg r = s.reg r) ∧ UnchangedBut [.regs] s t)

/-! ## Index register and memory -/

/-- R110, R112: LDI and FONT; FONT uses the low nibble of `V[X]` alone. -/
def Obligations.IndexLoadsWriteTheIndexAlone : Prop :=
  ∀ (nnn : Addr12) (x : RegIdx) (s : State),
    (∃ t, exec (.ldi nnn) s = .next t ∧ t.I.toNat = nnn.toNat ∧ UnchangedBut [.I] s t) ∧
    (∃ t, exec (.font x) s = .next t ∧ t.I.toNat = 0x050 + 5 * ((s.reg x).toNat % 16) ∧ UnchangedBut [.I] s t)

/-- R111: ADDI, with its strict threshold and its fault. -/
def Obligations.AddToIndexSetsTheFlagOrOverflows : Prop :=
  ∀ (x : RegIdx) (s : State) (sum : Nat), sum = s.I.toNat + (s.reg x).toNat →
    (sum ≤ 0xFFFF →
      ∃ t, exec (.addi x) s = .next t ∧ t.I.toNat = sum ∧
        (t.reg vF).toNat = (if 0x1000 < sum then 1 else 0) ∧
        (∀ r, r ≠ vF → t.reg r = s.reg r) ∧ UnchangedBut [.I, .regs] s t) ∧
    (0xFFFF < sum →
      ∃ t, exec (.addi x) s = .next t ∧ t.fault = faultIn (.addi x) (.indexOverflow sum) s ∧
        UnchangedBut [.fault] s t)

/-- R114: BCD: the three digits from `I` up and no other byte, or the fault and no byte at all. -/
def Obligations.BcdStoresThreeDigitsOrNothing : Prop :=
  ∀ (x : RegIdx) (s : State),
    (s.dataBase ≤ 0xFFD →
      ∃ t, exec (.bcd x) s = .next t ∧
        (Memory.read t.mem s.dataBase).toNat = (s.reg x).toNat / 100 ∧
        (Memory.read t.mem (s.dataBase + 1)).toNat = (s.reg x).toNat / 10 % 10 ∧
        (Memory.read t.mem (s.dataBase + 2)).toNat = (s.reg x).toNat % 10 ∧
        (∀ a, ¬(Instr.bcd x).stores s a → Memory.read t.mem a = Memory.read s.mem a) ∧
        UnchangedBut [.mem] s t) ∧
    (0xFFD < s.dataBase →
      ∃ t, exec (.bcd x) s = .next t ∧
        t.fault = faultIn (.bcd x) (.memoryBounds (max s.dataBase 0x1000) .write) s ∧ UnchangedBut [.fault] s t)

/-- R115: STM: `V[0]` to `V[X]` from `I` up and no other byte, or the fault and no byte at all. -/
def Obligations.StoreRegistersWritesTheSpanOrNothing : Prop :=
  ∀ (x : RegIdx) (s : State),
    (s.dataBase + x.toNat ≤ 0xFFF →
      ∃ t, exec (.stm x) s = .next t ∧
        (∀ r : RegIdx, r.toNat ≤ x.toNat → Memory.read t.mem (s.dataBase + r.toNat) = s.reg r) ∧
        (∀ a, ¬(Instr.stm x).stores s a → Memory.read t.mem a = Memory.read s.mem a) ∧
        UnchangedBut [.mem] s t) ∧
    (0xFFF < s.dataBase + x.toNat →
      ∃ t, exec (.stm x) s = .next t ∧
        t.fault = faultIn (.stm x) (.memoryBounds (max s.dataBase 0x1000) .write) s ∧ UnchangedBut [.fault] s t)

/-- R116: LDM: `V[0]` to `V[X]` from memory and no other register, or the fault and no register at all. -/
def Obligations.LoadRegistersReadsTheSpanOrNothing : Prop :=
  ∀ (x : RegIdx) (s : State),
    (s.dataBase + x.toNat ≤ 0xFFF →
      ∃ t, exec (.ldm x) s = .next t ∧
        (∀ r : RegIdx, r.toNat ≤ x.toNat → t.reg r = Memory.read s.mem (s.dataBase + r.toNat)) ∧
        (∀ r : RegIdx, x.toNat < r.toNat → t.reg r = s.reg r) ∧
        UnchangedBut [.regs] s t) ∧
    (0xFFF < s.dataBase + x.toNat →
      ∃ t, exec (.ldm x) s = .next t ∧
        t.fault = faultIn (.ldm x) (.memoryBounds (max s.dataBase 0x1000) .read) s ∧ UnchangedBut [.fault] s t)

/-- R115, R116, R113: what STM stored, LDM brings back, whatever happened to the registers in between. -/
def Obligations.StoreThenLoadRestoresTheRegisters : Prop :=
  ∀ (x : RegIdx) (s t u : State), s.dataBase + x.toNat ≤ 0xFFF → exec (.stm x) s = .next t →
    u.mem = t.mem → u.I = t.I →
    ∃ w, exec (.ldm x) u = .next w ∧ ∀ r : RegIdx, r.toNat ≤ x.toNat → w.reg r = s.reg r

/-- R54, R45 (inferences the spec marks as derived): the fetch after a step that stored with STM reads the stored bytes,
the register of the lower address as the high byte. -/
def Obligations.FetchSeesTheBytesJustStored : Prop :=
  ∀ (s : State) (x : RegIdx), s.fault = none → s.pc.toNat ≤ 0xFFE → decodeWord (opcodeAt s s.pc) = .stm x →
    s.dataBase + x.toNat ≤ 0xFFF →
    ∃ t, step s = .next t ∧
      ∀ (p : PcWord) (r q : RegIdx), p.toNat = s.dataBase + r.toNat → q.toNat = r.toNat + 1 → q.toNat ≤ x.toNat →
        Memory.fetchWord t.mem p = .ok (joinBytes (s.reg r) (s.reg q))

/-! ## Display -/

/-- R122: CLS, for every value of its unexamined field (R68). -/
def Obligations.ClearTurnsEveryPixelOff : Prop :=
  ∀ (x : RegIdx) (s : State),
    ∃ t, exec (.cls x) s = .next t ∧ (∀ i j, t.fb.pixel i j = false) ∧ t.events = .clear :: s.events ∧
      UnchangedBut [.fb, .events] s t

/-- R123, R124, R126: where the rows can be read and every set bit is on the grid, DRW flips exactly the set bits' pixels,
emits `Present` and changes nothing else, VF included. -/
def Obligations.DrawFlipsExactlyTheSpritePixels : Prop :=
  ∀ (x y : RegIdx) (n : BitVec 4) (s : State) (x0 y0 : Nat),
    x0 = (s.reg x).toNat % 63 → y0 = (s.reg y).toNat →
    (n.toNat = 0 ∨ s.dataBase + n.toNat ≤ 0x1000) →
    (∀ r k, r < n.toNat → k < 8 → spriteBit s r k = true → ¬offScreen (x0 + k) (y0 + r)) →
    ∃ t, exec (.drw x y n) s = .next t ∧ t.events = .present :: s.events ∧ UnchangedBut [.fb, .events] s t ∧
      (∀ r k, r < n.toNat → k < 8 → spriteBit s r k = true →
        t.fb.pixel (x0 + k) (y0 + r) = !s.fb.pixel (x0 + k) (y0 + r)) ∧
      (∀ i j, (∀ r k, r < n.toNat → k < 8 → spriteBit s r k = true → ¬(i = x0 + k ∧ j = y0 + r)) →
        t.fb.pixel i j = s.fb.pixel i j)

/-- R123 step 1, R152: DRW whose rows do not all exist. -/
def Obligations.DrawFaultsWhenARowIsOutOfMemory : Prop :=
  ∀ (x y : RegIdx) (n : BitVec 4) (s : State), n.toNat ≠ 0 → 0x1000 < s.dataBase + n.toNat →
    ∃ t, exec (.drw x y n) s = .next t ∧
      t.fault = faultIn (.drw x y n) (.memoryBounds (max s.dataBase 0x1000) .read) s ∧ UnchangedBut [.fault] s t

/-- R125, R123 step 2: DRW with a set bit off the grid: the record names the first one in row-major order, and no pixel
changes. -/
def Obligations.DrawFaultsAtTheFirstPixelOffTheGrid : Prop :=
  ∀ (x y : RegIdx) (n : BitVec 4) (s : State) (x0 y0 r k : Nat),
    x0 = (s.reg x).toNat % 63 → y0 = (s.reg y).toNat → s.dataBase + n.toNat ≤ 0x1000 →
    r < n.toNat → k < 8 → spriteBit s r k = true → offScreen (x0 + k) (y0 + r) →
    (∀ r' k', before r' k' r k → k' < 8 → spriteBit s r' k' = true → ¬offScreen (x0 + k') (y0 + r')) →
    ∃ t, exec (.drw x y n) s = .next t ∧
      t.fault = faultIn (.drw x y n) (.displayBounds (x0 + k) (y0 + r)) s ∧ UnchangedBut [.fault] s t

/-- R121: a flip is its own inverse, flips commute, and a clear after any flips leaves every pixel off. -/
def Obligations.FlipsAreSelfInverseAndCommute : Prop :=
  (∀ (f : FrameBuffer) (x y : Nat), x < 64 → y < 32 → (f.flip x y).flip x y = f) ∧
  (∀ (f : FrameBuffer) (x y x' y' : Nat), (f.flip x y).flip x' y' = (f.flip x' y').flip x y) ∧
  (∀ (x : RegIdx) (s : State) (l : List (Nat × Nat)),
    ∃ t, exec (.cls x) (s.setFb (s.fb.flipAll l)) = .next t ∧ ∀ i j, t.fb.pixel i j = false)

/-- R123 with R121: the same sprite drawn twice at the same place restores the buffer. -/
def Obligations.DrawingTwiceRestoresTheBuffer : Prop :=
  ∀ (x y : RegIdx) (n : BitVec 4) (s t : State), s.fault = none → exec (.drw x y n) s = .next t → t.fault = none →
    ∃ u, exec (.drw x y n) t = .next u ∧ u.fault = none ∧ u.fb = s.fb

/-! ## Keys and timers -/

/-- R130, R131: SKP and SKNP: the whole register is the key code, and a code above 15 is never held. -/
def Obligations.KeySkipsTestTheSnapshot : Prop :=
  ∀ (x : RegIdx) (s : State) (held : Prop),
    (held ↔ (s.reg x).toNat ≤ 15 ∧ s.keys.getLsbD (s.reg x).toNat = true) →
    (∃ t, exec (.skp x) s = .next t ∧ (held → t.pc = s.pc + 2) ∧ (¬held → t.pc = s.pc) ∧
      UnchangedBut [.pc] s t) ∧
    (∃ t, exec (.sknp x) s = .next t ∧ (held → t.pc = s.pc) ∧ (¬held → t.pc = s.pc + 2) ∧
      UnchangedBut [.pc] s t)

/-- R133: WAITK repeats while no key is held and otherwise changes nothing; no register is written. -/
def Obligations.WaitRepeatsUntilAnyKeyIsHeld : Prop :=
  ∀ (x : RegIdx) (s : State),
    ((∀ k, k < 16 → s.keys.getLsbD k = false) →
      ∃ t, exec (.waitk x) s = .next t ∧ t.pc = s.pc - 2 ∧ UnchangedBut [.pc] s t) ∧
    (∀ k, k < 16 → s.keys.getLsbD k = true → ∃ t, exec (.waitk x) s = .next t ∧ UnchangedBut [] s t)

/-- R134, R135: SETDT and SETST write one timer and emit nothing. -/
def Obligations.TimerWritesSetOneTimer : Prop :=
  ∀ (x : RegIdx) (s : State),
    (∃ t, exec (.setdt x) s = .next t ∧ t.DT = s.reg x ∧ UnchangedBut [.DT] s t) ∧
    (∃ t, exec (.setst x) s = .next t ∧ t.ST = s.reg x ∧ UnchangedBut [.ST] s t)

/-! ## The timer agent -/

/-- R165: any number of `TickDT` counts down to zero and holds there. -/
def Obligations.DelayTicksCountDownAndHoldAtZero : Prop :=
  ∀ (k : Nat) (s : State), s.fault = none →
    (tickDT^[k] s).DT.toNat = s.DT.toNat - k ∧ UnchangedBut [.DT] s (tickDT^[k] s)

/-- R166: one `TickST`: the decrement, and a `Beep` exactly on arriving at a non-zero multiple of 30. -/
def Obligations.SoundTickBeepsAtMultiplesOfThirty : Prop :=
  ∀ s : State, s.fault = none →
    (tickST s).ST.toNat = s.ST.toNat - 1 ∧
    (s.ST.toNat - 1 ≠ 0 ∧ (s.ST.toNat - 1) % 30 = 0 → (tickST s).events = .beep :: s.events) ∧
    (s.ST.toNat - 1 = 0 ∨ (s.ST.toNat - 1) % 30 ≠ 0 → (tickST s).events = s.events) ∧
    UnchangedBut [.ST, .events] s (tickST s)

/-- R168, R166: over any number of ticks every non-zero multiple of 30 passed through gives exactly one `Beep`. -/
def Obligations.SoundTicksGiveOneBeepPerMultiplePassed : Prop :=
  ∀ (k : Nat) (s : State), s.fault = none →
    (tickST^[k] s).ST.toNat = s.ST.toNat - k ∧
    (tickST^[k] s).events =
      List.replicate ((s.ST.toNat - 1) / 30 - (s.ST.toNat - 1 - k) / 30) Event.beep ++ s.events

/-! ## The step -/

/-- R60, R15, R167, R168: a step of a running machine whose opcode can be fetched executes the decoded instruction with
`pc = a + 2`; if that raised a fault nothing follows (read from R156 and R157: log 5); otherwise the two timers run down by
the cycle's tick counts, the cycle's inputs are spent, and nothing else changes. That the ticks follow the cycle within one
step is the model's arrangement (log 2), and the clause on `script` and `cycles` is about the model's own fields
(log 1). -/
def Obligations.StepRunsTheDecodedInstruction : Prop :=
  ∀ (s t : State), s.fault = none → s.pc.toNat ≤ 0xFFE →
    exec (decodeWord (opcodeAt s s.pc)) (s.setPc (s.pc + 2)) = .next t →
    ∃ u, step s = .next u ∧ (t.fault ≠ none → u = t) ∧
      (t.fault = none →
        u.DT.toNat = t.DT.toNat - s.inputs.ticksDT ∧ u.ST.toNat = t.ST.toNat - s.inputs.ticksST ∧
        u.events = List.replicate ((t.ST.toNat - 1) / 30 - (t.ST.toNat - 1 - s.inputs.ticksST) / 30) Event.beep
          ++ t.events ∧
        u.script = s.script.tail ∧ u.cycles = s.cycles + 1 ∧ UnchangedBut [.DT, .ST, .events, .inputs] t u)

/-- The host's placing of an opcode (log 16): the next step runs exactly the instruction of that word. -/
def Obligations.StepRunsThePlacedOpcode : Prop :=
  ∀ (s : State) (w : Word), s.fault = none → s.pc.toNat ≤ 0xFFE →
    step (s.withFetchWord 16 w.toNat) = afterCycle (exec (decodeWord w) (s.withFetchWord 16 w.toNat).advance)

/-- No step of this machine stops the model: every state has a next one (R69: nothing is illegal; R156: a fault has an
entry, log 3; a halted machine steps to itself, log 4). -/
def Obligations.EveryStepAnswersANextState : Prop :=
  ∀ s : State, ∃ t, step s = .next t

/-- The frame of every instruction, part by part (R13, R14, R16, R20 to R24, R26, R43). -/
def Obligations.InstructionsChangeOnlyTheirParts : Prop :=
  ∀ (i : Instr) (s t : State), exec i s = .next t → UnchangedBut i.mayChange s t

/-- R13: no instruction writes a general register but the ones its rule names. -/
def Obligations.InstructionsWriteOnlyTheirRegisters : Prop :=
  ∀ (i : Instr) (s t : State), exec i s = .next t → ∀ r, i.writesReg r = false → t.reg r = s.reg r

/-- R43, R41: no instruction changes a byte of memory but the ones it stores to, and only BCD and STM store. -/
def Obligations.InstructionsStoreOnlyTheirSpan : Prop :=
  ∀ (i : Instr) (s t : State), exec i s = .next t →
    ∀ a, ¬i.stores s a → Memory.read t.mem a = Memory.read s.mem a

/-- R4, R181: the build switches never change. -/
def Obligations.StepsKeepTheBuildSwitches : Prop :=
  ∀ s t : State, step s = .next t → t.build = s.build

/-- R126: nothing but pixels ever depends on a pixel. -/
def Obligations.PixelsNeverInfluenceAnythingElse : Prop :=
  ∀ (s t : State) (f : FrameBuffer), step s = .next t → ∃ g, step (s.setFb f) = .next (t.setFb g)

/-- R24: nothing but the sound timer and the beeps ever depends on the sound timer: no instruction reads it. -/
def Obligations.TheSoundTimerNeverInfluencesAProgram : Prop :=
  ∀ (s t : State) (b : Byte), step s = .next t →
    ∃ c events, step (s.setST b) = .next { t.setST c with events := events }

/-! ## Faults -/

/-- R152, R158: a fetch that cannot be made leaves `pc` alone and records no opcode. -/
def Obligations.FetchFaultsAboveTheLastOpcode : Prop :=
  ∀ s : State, s.fault = none → 0xFFE < s.pc.toNat →
    ∃ t, step s = .next t ∧
      t.fault = some { cause := .memoryBounds (max s.pc.toNat 0x1000) .fetch, pc := s.pc, opcode := none } ∧
      UnchangedBut [.fault] s t

/-- R157, R27: while the record is there neither the core nor the timer agent changes anything (that a requested cycle of
a halted core answers the state itself is log 4). -/
def Obligations.AHaltedMachineNeverChanges : Prop :=
  ∀ s : State, s.halted → step s = .next s ∧ tickDT s = s ∧ tickST s = s

/-- R156, R158: a step that raises a fault changes `pc` and the record alone, the record names the address and the opcode
of the cycle, and `pc` is a or a + 2. -/
def Obligations.FaultsArePrecise : Prop :=
  ∀ (s t : State) (r : FaultRecord), s.fault = none → step s = .next t → t.fault = some r →
    t = { s with pc := t.pc, fault := some r } ∧ r.pc = s.pc ∧
    (0xFFE < s.pc.toNat → t.pc = s.pc ∧ r.opcode = none) ∧
    (s.pc.toNat ≤ 0xFFE → t.pc = s.pc + 2 ∧ r.opcode = some (opcodeAt s s.pc))

/-! ## The invariant, reset and boot -/

/-- The invariant holds after reset. -/
def Obligations.ResetMeetsTheInvariant : Prop := Inv State.reset

/-- R17, R19, R22, R40, R156, R158 and the canonical form of the memory list: from every state that meets the invariant,
reached or not, every step gives a state that meets it. -/
def Obligations.EveryStepKeepsTheInvariant : Prop :=
  ∀ s t : State, Inv s → step s = .next t → Inv t

/-- R33, R180, R181: the reset state, and what `rst` does to any state (that the model's own trace starts again is
log 18). -/
def Obligations.ResetPutsEveryPieceAtItsValue : Prop :=
  ∀ s : State,
    s.rst.pc = 0x200 ∧ s.rst.I = 0 ∧ s.rst.sp = 0 ∧ s.rst.DT = 0 ∧ s.rst.ST = 0 ∧ s.rst.fault = none ∧
    (∀ r, s.rst.reg r = 0) ∧ (∀ a, Memory.read s.rst.mem a = 0) ∧ (∀ x y, s.rst.fb.pixel x y = false) ∧
    s.rst.build = s.build ∧
    State.reset.build = { shiftMode := .modern, jumpMode := .legacy } ∧ State.reset.rst = State.reset

/-- R182, R183, R42: after boot the font is at 0x050, the image at 0x200, every other byte is 0x00, and nothing else
differs from reset; an image of more than 3584 bytes is refused. -/
def Obligations.BootLaysOutTheFontAndTheImage : Prop :=
  ∀ (s : State) (font : Vector Byte 80) (image : List Byte),
    (image.length ≤ 3584 →
      ∃ t, boot s font image = .ok t ∧ UnchangedBut [.mem] s.rst t ∧
        (∀ (k : Nat) (h : k < 80), Memory.read t.mem (0x050 + k) = font[k]) ∧
        (∀ (j : Nat) (h : j < image.length), Memory.read t.mem (0x200 + j) = image[j]) ∧
        (∀ a, ¬(0x050 ≤ a ∧ a < 0x0A0) → ¬(0x200 ≤ a ∧ a < 0x200 + image.length) → Memory.read t.mem a = 0x00)) ∧
    (3584 < image.length → boot s font image = .error (.imageTooLong image.length))

/-- R190: the settled state stays settled, and only the timers (with their beeps and the inputs) move. -/
def Obligations.SettledStatesStaySettled : Prop :=
  ∀ s : State, s.settled → ∃ t, step s = .next t ∧ t.settled ∧ UnchangedBut [.DT, .ST, .events, .inputs] s t

end
end

