-- ==== Sys2Proof/Laws/Memory.lean ====
section
/-! SUPPORT. The laws of the byte memory: a read after a write, and every operation keeps the canonical form and the
address space (spec/20_memory.md R40, R46 to R48, R52). -/

namespace Sys2Proof.Machine

theorem Memory.read_erase (m : Memory) (a c : Nat) :
    Memory.read (Memory.erase m a) c = if c = a then Memory.unlisted else Memory.read m c := by
  induction m with
  | nil => simp [Memory.erase, Memory.read]
  | cons e rest ih =>
    obtain ⟨k, v⟩ := e
    simp only [Memory.erase] at ih ⊢
    by_cases h : k = a
    · subst h
      simp only [List.filter_cons, beq_self_eq_true, Bool.not_true, Bool.false_eq_true, if_false, ih, Memory.read]
      split <;> rfl
    · simp only [List.filter_cons, beq_eq_false_iff_ne.mpr h, Bool.not_false, if_true, Memory.read, ih]
      split <;> split <;> simp_all

theorem Memory.read_insert (m : Memory) (a c : Nat) (b : Byte) :
    Memory.read (Memory.insert m a b) c = if c = a then b else Memory.read m c := by
  induction m with
  | nil => rfl
  | cons e rest ih =>
    obtain ⟨k, v⟩ := e
    simp only [Memory.insert]
    split
    · rfl
    · split
      · subst_vars
        simp only [Memory.read]
        split <;> rfl
      · simp only [Memory.read, ih]
        split <;> split <;> simp_all

/-- A read after a write (R52). -/
theorem Memory.read_write (m : Memory) (a c : Nat) (b : Byte) :
    Memory.read (Memory.write m a b) c = if c = a then b else Memory.read m c := by
  unfold Memory.write
  split
  · rename_i h
    rw [Memory.read_erase, h]
  · exact Memory.read_insert m a c b

/-- A read after a write of consecutive bytes. -/
theorem Memory.read_writeBytes (bs : List Byte) (m : Memory) (a c : Nat) :
    Memory.read (Memory.writeBytes m a bs) c =
      if a ≤ c ∧ c < a + bs.length then bs.getD (c - a) 0 else Memory.read m c := by
  induction bs generalizing m a with
  | nil =>
    have : ¬(a ≤ c ∧ c < a) := by omega
    simp [Memory.writeBytes, this]
  | cons b bs ih =>
    simp only [Memory.writeBytes, ih, Memory.read_write, List.length_cons]
    by_cases h : c = a
    · subst h
      simp
    · by_cases h2 : a + 1 ≤ c ∧ c < a + 1 + bs.length
      · have h3 : a ≤ c ∧ c < a + (bs.length + 1) := by omega
        have d : c - a = (c - (a + 1)) + 1 := by omega
        simp only [h2, h3, and_self, if_true, d, List.getD_cons_succ]
      · have h3 : ¬(a ≤ c ∧ c < a + (bs.length + 1)) := by omega
        rw [if_neg h2, if_neg h3, if_neg h]

theorem Memory.erase_wf {m : Memory} (a : Nat) (h : Memory.wf m) : Memory.wf (Memory.erase m a) :=
  ⟨h.1.filter _, fun c hc => h.2 c (List.mem_of_mem_filter hc)⟩

theorem Memory.mem_insert {m : Memory} {a : Nat} {b : Byte} {c : Host.Cell} (h : c ∈ Memory.insert m a b) :
    c = (a, b) ∨ c ∈ m := by
  induction m with
  | nil => simpa [Memory.insert] using h
  | cons e rest ih =>
    obtain ⟨k, v⟩ := e
    simp only [Memory.insert] at h
    split at h
    · simpa using h
    · split at h
      · rcases List.mem_cons.mp h with h | h
        · exact .inl h
        · exact .inr (List.mem_cons_of_mem _ h)
      · rcases List.mem_cons.mp h with h | h
        · exact .inr (h ▸ List.mem_cons_self)
        · exact (ih h).imp_right (List.mem_cons_of_mem _)

theorem Memory.insert_wf {m : Memory} (a : Nat) {b : Byte} (hb : b ≠ Memory.unlisted) (h : Memory.wf m) :
    Memory.wf (Memory.insert m a b) := by
  refine ⟨?_, fun c hc => ?_⟩
  · obtain ⟨hs, -⟩ := h
    induction m with
    | nil => simp [Memory.insert]
    | cons e rest ih =>
      obtain ⟨k, v⟩ := e
      obtain ⟨hk, hr⟩ := List.pairwise_cons.mp hs
      simp only [Memory.insert]
      split
      · rename_i hlt
        refine List.pairwise_cons.mpr ⟨fun c hc => ?_, hs⟩
        rcases List.mem_cons.mp hc with rfl | hc
        · exact hlt
        · exact Nat.lt_trans hlt (hk c hc)
      · split
        · rename_i heq
          subst heq
          exact List.pairwise_cons.mpr ⟨hk, hr⟩
        · rename_i h1 h2
          refine List.pairwise_cons.mpr ⟨fun c hc => ?_, ih hr⟩
          rcases Memory.mem_insert hc with rfl | hc
          · show k < a
            omega
          · exact hk c hc
  · rcases Memory.mem_insert hc with rfl | hc
    · exact hb
    · exact h.2 c hc

/-- A write keeps the canonical form. -/
theorem Memory.write_wf {m : Memory} (a : Nat) (b : Byte) (h : Memory.wf m) : Memory.wf (Memory.write m a b) := by
  unfold Memory.write
  split
  · exact Memory.erase_wf a h
  · exact Memory.insert_wf a ‹_› h

theorem Memory.writeBytes_wf (bs : List Byte) {m : Memory} (a : Nat) (h : Memory.wf m) :
    Memory.wf (Memory.writeBytes m a bs) := by
  induction bs generalizing m a with
  | nil => exact h
  | cons b bs ih => exact ih _ (Memory.write_wf a b h)

/-- A write inside the address space stays inside it. -/
theorem Memory.write_inSpace {m : Memory} {a : Nat} (b : Byte) (ha : a < Config.memSize) (h : Memory.inSpace m) :
    Memory.inSpace (Memory.write m a b) := by
  unfold Memory.write
  split
  · exact fun c hc => h c (List.mem_of_mem_filter hc)
  · intro c hc
    rcases Memory.mem_insert hc with rfl | hc
    · exact ha
    · exact h c hc

theorem Memory.writeBytes_inSpace (bs : List Byte) {m : Memory} {a : Nat} (ha : a + bs.length ≤ Config.memSize)
    (h : Memory.inSpace m) : Memory.inSpace (Memory.writeBytes m a bs) := by
  induction bs generalizing m a with
  | nil => exact h
  | cons b bs ih =>
    simp only [List.length_cons] at ha
    exact ih (by omega) (Memory.write_inSpace b (by omega) h)

/-- All that `writeSpan` does where it answers a memory. -/
theorem Memory.writeSpan_ok {m m' : Memory} {a : Nat} {bs : List Byte} (h : Memory.writeSpan m a bs = .ok m') :
    (bs = [] ∨ a + bs.length ≤ Config.memSize) ∧ m' = Memory.writeBytes m a bs := by
  unfold Memory.writeSpan at h
  split at h
  · exact ⟨‹_›, by simpa using h.symm⟩
  · cases h

/-- All that `writeSpan` does where it faults (R48, R152). -/
theorem Memory.writeSpan_error {m : Memory} {a : Nat} {bs : List Byte} {f : Fault}
    (h : Memory.writeSpan m a bs = .error f) :
    Config.memSize < a + bs.length ∧ f = .memoryBounds (max a Config.memSize) .write := by
  unfold Memory.writeSpan at h
  split at h
  · cases h
  · rename_i hc
    exact ⟨by omega, by simpa using h.symm⟩

/-- `readSpan` in full (R46, R152): the bytes where the whole span exists, and otherwise the lowest address that does not. -/
theorem Memory.readSpan_eq (m : Memory) (kind : AccessKind) (n a : Nat) :
    Memory.readSpan m kind a n =
      if n = 0 ∨ a + n ≤ Config.memSize then .ok ((List.range' a n).map (Memory.read m))
      else .error (.memoryBounds (max a Config.memSize) kind) := by
  induction n generalizing a with
  | zero => simp [Memory.readSpan]
  | succ n ih =>
    simp only [Memory.readSpan, ih]
    by_cases h1 : a < Config.memSize
    · by_cases h2 : a + (n + 1) ≤ Config.memSize
      · have h3 : n = 0 ∨ a + 1 + n ≤ Config.memSize := by omega
        simp [h1, h2, h3, List.range'_succ]
      · have h3 : ¬(n = 0 ∨ a + 1 + n ≤ Config.memSize) := by omega
        have h4 : max (a + 1) Config.memSize = max a Config.memSize := by omega
        simp only [h1, h2, h3, if_true, if_false, h4, Nat.add_one_ne_zero, or_self]
    · have h2 : ¬(n + 1 = 0 ∨ a + (n + 1) ≤ Config.memSize) := by omega
      have h4 : max a Config.memSize = a := by omega
      simp only [h1, h2, if_false, h4]

/-- The fetch in full (R44, R152). -/
theorem Memory.fetchWord_eq (m : Memory) (pc : PcWord) :
    Memory.fetchWord m pc =
      if pc.toNat + 2 ≤ Config.memSize then
        .ok (joinBytes (Memory.read m pc.toNat) (Memory.read m (pc.toNat + 1)))
      else .error (.memoryBounds (max pc.toNat Config.memSize) .fetch) := by
  unfold Memory.fetchWord
  rw [Memory.readSpan_eq]
  by_cases h : pc.toNat + 2 ≤ Config.memSize <;> simp [h]

end Sys2Proof.Machine
end

