-- ==== Sys2Proof/Laws/Display.lean ====
section
/-! SUPPORT. The XOR engine as it reads, pixel by pixel (spec/43_display.md R120, R123). -/

namespace Sys2Proof.Machine

@[simp] theorem FrameBuffer.pixel_cleared (x y : Nat) : FrameBuffer.cleared.pixel x y = false := by
  unfold FrameBuffer.pixel FrameBuffer.cleared
  split <;> simp

/-- A flip toggles one pixel of the grid and no other. -/
theorem FrameBuffer.pixel_flip (f : FrameBuffer) (x y i j : Nat) :
    (f.flip x y).pixel i j =
      (f.pixel i j ^^ decide (i = x ∧ j = y ∧ x < Config.displayW ∧ y < Config.displayH)) := by
  unfold FrameBuffer.flip FrameBuffer.pixel
  by_cases hy : y < Config.displayH
  · by_cases hj : j < Config.displayH
    · by_cases e : j = y
      · subst e
        simp only [hy, dif_pos, Vector.getElem_set_self, BitVec.getLsbD_xor, BitVec.getLsbD_shiftLeft]
        congr 1
        by_cases hi : i < 64
        · by_cases hx : i = x
          · subst hx; simp [hi]
          · by_cases hlt : i < x
            · simp [hi, hx, hlt]
            · have : i - x ≠ 0 := by omega
              simp [hi, hx, hlt, this]
        · have : ¬(i = x ∧ x < Config.displayW) := fun q => hi (q.1 ▸ q.2)
          simp only [hi, decide_false, Bool.false_and, true_and]
          exact (decide_eq_false (fun q => this ⟨q.1, q.2.1⟩)).symm
      · have : y ≠ j := fun q => e q.symm
        simp [hy, hj, e, this]
    · have : ¬(j = y) := by omega
      simp [hj, hy, this]
  · simp [hy]

/-- The pixels of a list that are flipped an odd number of times change. -/
theorem FrameBuffer.pixel_flipAll (l : List (Nat × Nat)) (f : FrameBuffer) (i j : Nat)
    (h : i < Config.displayW ∧ j < Config.displayH) :
    (f.flipAll l).pixel i j = (f.pixel i j ^^ decide (l.count (i, j) % 2 = 1)) := by
  induction l generalizing f with
  | nil => simp [FrameBuffer.flipAll]
  | cons p rest ih =>
    obtain ⟨x, y⟩ := p
    rw [FrameBuffer.flipAll, ih, FrameBuffer.pixel_flip, Bool.xor_assoc]
    congr 1
    by_cases e : i = x ∧ j = y
    · obtain ⟨rfl, rfl⟩ := e
      simp only [h, and_self, decide_true, List.count_cons_self, Bool.true_xor]
      rcases Nat.mod_two_eq_zero_or_one (List.count (i, j) rest) with q | q <;> simp [q, Nat.add_mod]
    · have hne : ¬((x, y) = (i, j)) := by
        intro q
        cases q
        exact e ⟨rfl, rfl⟩
      have e' : ¬(i = x ∧ j = y ∧ x < Config.displayW ∧ y < Config.displayH) := fun q => e ⟨q.1, q.2.1⟩
      simp [e', hne]

/-- Which pixels a sprite row sets (R123). -/
theorem mem_spriteRowPixels (x0 y : Nat) (row : Byte) (i j : Nat) :
    (i, j) ∈ spriteRowPixels x0 y row ↔ j = y ∧ x0 ≤ i ∧ i < x0 + 8 ∧ row.getLsbD (7 - (i - x0)) = true := by
  simp only [spriteRowPixels, List.mem_map, List.mem_filter, List.mem_range, Prod.mk.injEq]
  constructor
  · rintro ⟨k, ⟨hk, hb⟩, rfl, rfl⟩
    refine ⟨rfl, by omega, by omega, ?_⟩
    simpa using hb
  · rintro ⟨rfl, h1, h2, hb⟩
    exact ⟨i - x0, ⟨by omega, hb⟩, by omega, rfl⟩

/-- Which pixels a sprite sets (R123): row `j − y0` of the sprite, bit `7 − (i − x0)`. -/
theorem mem_spritePixels (rows : List Byte) (x0 y0 i j : Nat) :
    (i, j) ∈ spritePixels x0 y0 rows ↔
      y0 ≤ j ∧ j < y0 + rows.length ∧ x0 ≤ i ∧ i < x0 + 8 ∧ (rows.getD (j - y0) 0).getLsbD (7 - (i - x0)) = true := by
  induction rows generalizing y0 with
  | nil =>
    simp only [spritePixels, List.not_mem_nil, List.length_nil, false_iff]
    omega
  | cons row rest ih =>
    simp only [spritePixels, List.mem_append, mem_spriteRowPixels, ih, List.length_cons]
    by_cases e : j = y0
    · subst e
      constructor
      · rintro (⟨-, h1, h2, h3⟩ | ⟨h, -⟩)
        · exact ⟨by omega, by omega, h1, h2, by simpa using h3⟩
        · omega
      · rintro ⟨-, -, h1, h2, h3⟩
        exact .inl ⟨rfl, h1, h2, by simpa using h3⟩
    · constructor
      · rintro (⟨h, -⟩ | ⟨h0, h1, h2, h3, h4⟩)
        · exact absurd h e
        · have d : j - y0 = (j - (y0 + 1)) + 1 := by omega
          exact ⟨by omega, by omega, h2, h3, by rw [d, List.getD_cons_succ]; exact h4⟩
      · rintro ⟨h0, h1, h2, h3, h4⟩
        have d : j - y0 = (j - (y0 + 1)) + 1 := by omega
        rw [d, List.getD_cons_succ] at h4
        exact .inr ⟨by omega, by omega, h2, h3, h4⟩

/-- The pixels of a sprite are distinct (R123). -/
theorem spritePixels_nodup (rows : List Byte) (x0 y0 : Nat) : (spritePixels x0 y0 rows).Nodup := by
  induction rows generalizing y0 with
  | nil => exact List.nodup_nil
  | cons row rest ih =>
    refine List.nodup_append.mpr ⟨?_, ih _, ?_⟩
    · refine (List.nodup_range.filter _).map ?_
      intro a b h
      simpa using h
    · rintro ⟨i, j⟩ h1 ⟨i', j'⟩ h2 heq
      cases heq
      have := (mem_spriteRowPixels x0 y0 row i j).mp h1
      have := (mem_spritePixels rest x0 (y0 + 1) i j).mp h2
      omega

/-- The pixels of a sprite stand in row-major order, columns ascending (R125). -/
theorem spritePixels_sorted (rows : List Byte) (x0 y0 : Nat) :
    (spritePixels x0 y0 rows).Pairwise (fun p q => p.2 < q.2 ∨ (p.2 = q.2 ∧ p.1 < q.1)) := by
  induction rows generalizing y0 with
  | nil => exact .nil
  | cons row rest ih =>
    refine List.pairwise_append.mpr ⟨?_, ih _, ?_⟩
    · exact List.Pairwise.map (S := fun p q : Nat × Nat => p.2 < q.2 ∨ (p.2 = q.2 ∧ p.1 < q.1)) _
        (fun a b h => .inr ⟨rfl, Nat.add_lt_add_left h _⟩) (List.pairwise_lt_range.filter _)
    · rintro ⟨i, j⟩ h1 ⟨i', j'⟩ h2
      have := (mem_spriteRowPixels x0 y0 row i j).mp h1
      have := (mem_spritePixels rest x0 (y0 + 1) i' j').mp h2
      exact .inl (by show j < j'; omega)

/-- In a list sorted by `R`, the first element that satisfies `q` is the one no other such element comes before. -/
theorem find?_of_sorted {α : Type} {R : α → α → Prop} {q : α → Bool} {l : List α} {a : α} (hs : l.Pairwise R)
    (ha : a ∈ l) (hq : q a = true) (hmin : ∀ b ∈ l, q b = true → ¬R b a) : l.find? q = some a := by
  induction l with
  | nil => cases ha
  | cons c rest ih =>
    obtain ⟨hc, hr⟩ := List.pairwise_cons.mp hs
    rcases List.mem_cons.mp ha with rfl | hm
    · simp [hq]
    · have : q c ≠ true := fun h => hmin c List.mem_cons_self h (hc a hm)
      simp only [List.find?_cons, this]
      exact ih hr hm (fun b hb => hmin b (List.mem_cons_of_mem _ hb))

end Sys2Proof.Machine
end

