-- ==== Sys2Proof/Laws/State.lean ====
section
/-! SUPPORT. One lemma per field per named update of the state, each true by rfl, so that no proof unfolds an update. -/

namespace Sys2Proof.Machine

variable (s : State)

/-! ### setReg -/

@[simp] theorem State.setReg_v (x : RegIdx) (b : Byte) : (s.setReg x b).v = s.v.set x.toNat b x.isLt := rfl
@[simp] theorem State.setReg_I (x : RegIdx) (b : Byte) : (s.setReg x b).I = s.I := rfl
@[simp] theorem State.setReg_pc (x : RegIdx) (b : Byte) : (s.setReg x b).pc = s.pc := rfl
@[simp] theorem State.setReg_stack (x : RegIdx) (b : Byte) : (s.setReg x b).stack = s.stack := rfl
@[simp] theorem State.setReg_DT (x : RegIdx) (b : Byte) : (s.setReg x b).DT = s.DT := rfl
@[simp] theorem State.setReg_ST (x : RegIdx) (b : Byte) : (s.setReg x b).ST = s.ST := rfl
@[simp] theorem State.setReg_fb (x : RegIdx) (b : Byte) : (s.setReg x b).fb = s.fb := rfl
@[simp] theorem State.setReg_mem (x : RegIdx) (b : Byte) : (s.setReg x b).mem = s.mem := rfl
@[simp] theorem State.setReg_fault (x : RegIdx) (b : Byte) : (s.setReg x b).fault = s.fault := rfl
@[simp] theorem State.setReg_events (x : RegIdx) (b : Byte) : (s.setReg x b).events = s.events := rfl
@[simp] theorem State.setReg_script (x : RegIdx) (b : Byte) : (s.setReg x b).script = s.script := rfl
@[simp] theorem State.setReg_cycles (x : RegIdx) (b : Byte) : (s.setReg x b).cycles = s.cycles := rfl
@[simp] theorem State.setReg_build (x : RegIdx) (b : Byte) : (s.setReg x b).build = s.build := rfl
@[simp] theorem State.setReg_inputs (x : RegIdx) (b : Byte) : (s.setReg x b).inputs = s.inputs := rfl

/-! ### setI -/

@[simp] theorem State.setI_v (w : IndexWord) : (s.setI w).v = s.v := rfl
@[simp] theorem State.setI_I (w : IndexWord) : (s.setI w).I = w := rfl
@[simp] theorem State.setI_pc (w : IndexWord) : (s.setI w).pc = s.pc := rfl
@[simp] theorem State.setI_stack (w : IndexWord) : (s.setI w).stack = s.stack := rfl
@[simp] theorem State.setI_DT (w : IndexWord) : (s.setI w).DT = s.DT := rfl
@[simp] theorem State.setI_ST (w : IndexWord) : (s.setI w).ST = s.ST := rfl
@[simp] theorem State.setI_fb (w : IndexWord) : (s.setI w).fb = s.fb := rfl
@[simp] theorem State.setI_mem (w : IndexWord) : (s.setI w).mem = s.mem := rfl
@[simp] theorem State.setI_fault (w : IndexWord) : (s.setI w).fault = s.fault := rfl
@[simp] theorem State.setI_events (w : IndexWord) : (s.setI w).events = s.events := rfl
@[simp] theorem State.setI_script (w : IndexWord) : (s.setI w).script = s.script := rfl
@[simp] theorem State.setI_cycles (w : IndexWord) : (s.setI w).cycles = s.cycles := rfl
@[simp] theorem State.setI_build (w : IndexWord) : (s.setI w).build = s.build := rfl
@[simp] theorem State.setI_reg (w : IndexWord) (x : RegIdx) : (s.setI w).reg x = s.reg x := rfl
@[simp] theorem State.setI_inputs (w : IndexWord) : (s.setI w).inputs = s.inputs := rfl

/-! ### setPc -/

@[simp] theorem State.setPc_v (w : PcWord) : (s.setPc w).v = s.v := rfl
@[simp] theorem State.setPc_I (w : PcWord) : (s.setPc w).I = s.I := rfl
@[simp] theorem State.setPc_pc (w : PcWord) : (s.setPc w).pc = w := rfl
@[simp] theorem State.setPc_stack (w : PcWord) : (s.setPc w).stack = s.stack := rfl
@[simp] theorem State.setPc_DT (w : PcWord) : (s.setPc w).DT = s.DT := rfl
@[simp] theorem State.setPc_ST (w : PcWord) : (s.setPc w).ST = s.ST := rfl
@[simp] theorem State.setPc_fb (w : PcWord) : (s.setPc w).fb = s.fb := rfl
@[simp] theorem State.setPc_mem (w : PcWord) : (s.setPc w).mem = s.mem := rfl
@[simp] theorem State.setPc_fault (w : PcWord) : (s.setPc w).fault = s.fault := rfl
@[simp] theorem State.setPc_events (w : PcWord) : (s.setPc w).events = s.events := rfl
@[simp] theorem State.setPc_script (w : PcWord) : (s.setPc w).script = s.script := rfl
@[simp] theorem State.setPc_cycles (w : PcWord) : (s.setPc w).cycles = s.cycles := rfl
@[simp] theorem State.setPc_build (w : PcWord) : (s.setPc w).build = s.build := rfl
@[simp] theorem State.setPc_reg (w : PcWord) (x : RegIdx) : (s.setPc w).reg x = s.reg x := rfl
@[simp] theorem State.setPc_inputs (w : PcWord) : (s.setPc w).inputs = s.inputs := rfl

/-! ### setStack -/

@[simp] theorem State.setStack_v (l : List PcWord) : (s.setStack l).v = s.v := rfl
@[simp] theorem State.setStack_I (l : List PcWord) : (s.setStack l).I = s.I := rfl
@[simp] theorem State.setStack_pc (l : List PcWord) : (s.setStack l).pc = s.pc := rfl
@[simp] theorem State.setStack_stack (l : List PcWord) : (s.setStack l).stack = l := rfl
@[simp] theorem State.setStack_DT (l : List PcWord) : (s.setStack l).DT = s.DT := rfl
@[simp] theorem State.setStack_ST (l : List PcWord) : (s.setStack l).ST = s.ST := rfl
@[simp] theorem State.setStack_fb (l : List PcWord) : (s.setStack l).fb = s.fb := rfl
@[simp] theorem State.setStack_mem (l : List PcWord) : (s.setStack l).mem = s.mem := rfl
@[simp] theorem State.setStack_fault (l : List PcWord) : (s.setStack l).fault = s.fault := rfl
@[simp] theorem State.setStack_events (l : List PcWord) : (s.setStack l).events = s.events := rfl
@[simp] theorem State.setStack_script (l : List PcWord) : (s.setStack l).script = s.script := rfl
@[simp] theorem State.setStack_cycles (l : List PcWord) : (s.setStack l).cycles = s.cycles := rfl
@[simp] theorem State.setStack_build (l : List PcWord) : (s.setStack l).build = s.build := rfl
@[simp] theorem State.setStack_reg (l : List PcWord) (x : RegIdx) : (s.setStack l).reg x = s.reg x := rfl
@[simp] theorem State.setStack_inputs (l : List PcWord) : (s.setStack l).inputs = s.inputs := rfl

/-! ### setDT -/

@[simp] theorem State.setDT_v (b : Byte) : (s.setDT b).v = s.v := rfl
@[simp] theorem State.setDT_I (b : Byte) : (s.setDT b).I = s.I := rfl
@[simp] theorem State.setDT_pc (b : Byte) : (s.setDT b).pc = s.pc := rfl
@[simp] theorem State.setDT_stack (b : Byte) : (s.setDT b).stack = s.stack := rfl
@[simp] theorem State.setDT_DT (b : Byte) : (s.setDT b).DT = b := rfl
@[simp] theorem State.setDT_ST (b : Byte) : (s.setDT b).ST = s.ST := rfl
@[simp] theorem State.setDT_fb (b : Byte) : (s.setDT b).fb = s.fb := rfl
@[simp] theorem State.setDT_mem (b : Byte) : (s.setDT b).mem = s.mem := rfl
@[simp] theorem State.setDT_fault (b : Byte) : (s.setDT b).fault = s.fault := rfl
@[simp] theorem State.setDT_events (b : Byte) : (s.setDT b).events = s.events := rfl
@[simp] theorem State.setDT_script (b : Byte) : (s.setDT b).script = s.script := rfl
@[simp] theorem State.setDT_cycles (b : Byte) : (s.setDT b).cycles = s.cycles := rfl
@[simp] theorem State.setDT_build (b : Byte) : (s.setDT b).build = s.build := rfl
@[simp] theorem State.setDT_reg (b : Byte) (x : RegIdx) : (s.setDT b).reg x = s.reg x := rfl
@[simp] theorem State.setDT_inputs (b : Byte) : (s.setDT b).inputs = s.inputs := rfl

/-! ### setST -/

@[simp] theorem State.setST_v (b : Byte) : (s.setST b).v = s.v := rfl
@[simp] theorem State.setST_I (b : Byte) : (s.setST b).I = s.I := rfl
@[simp] theorem State.setST_pc (b : Byte) : (s.setST b).pc = s.pc := rfl
@[simp] theorem State.setST_stack (b : Byte) : (s.setST b).stack = s.stack := rfl
@[simp] theorem State.setST_DT (b : Byte) : (s.setST b).DT = s.DT := rfl
@[simp] theorem State.setST_ST (b : Byte) : (s.setST b).ST = b := rfl
@[simp] theorem State.setST_fb (b : Byte) : (s.setST b).fb = s.fb := rfl
@[simp] theorem State.setST_mem (b : Byte) : (s.setST b).mem = s.mem := rfl
@[simp] theorem State.setST_fault (b : Byte) : (s.setST b).fault = s.fault := rfl
@[simp] theorem State.setST_events (b : Byte) : (s.setST b).events = s.events := rfl
@[simp] theorem State.setST_script (b : Byte) : (s.setST b).script = s.script := rfl
@[simp] theorem State.setST_cycles (b : Byte) : (s.setST b).cycles = s.cycles := rfl
@[simp] theorem State.setST_build (b : Byte) : (s.setST b).build = s.build := rfl
@[simp] theorem State.setST_reg (b : Byte) (x : RegIdx) : (s.setST b).reg x = s.reg x := rfl
@[simp] theorem State.setST_inputs (b : Byte) : (s.setST b).inputs = s.inputs := rfl

/-! ### setFb -/

@[simp] theorem State.setFb_v (f : FrameBuffer) : (s.setFb f).v = s.v := rfl
@[simp] theorem State.setFb_I (f : FrameBuffer) : (s.setFb f).I = s.I := rfl
@[simp] theorem State.setFb_pc (f : FrameBuffer) : (s.setFb f).pc = s.pc := rfl
@[simp] theorem State.setFb_stack (f : FrameBuffer) : (s.setFb f).stack = s.stack := rfl
@[simp] theorem State.setFb_DT (f : FrameBuffer) : (s.setFb f).DT = s.DT := rfl
@[simp] theorem State.setFb_ST (f : FrameBuffer) : (s.setFb f).ST = s.ST := rfl
@[simp] theorem State.setFb_fb (f : FrameBuffer) : (s.setFb f).fb = f := rfl
@[simp] theorem State.setFb_mem (f : FrameBuffer) : (s.setFb f).mem = s.mem := rfl
@[simp] theorem State.setFb_fault (f : FrameBuffer) : (s.setFb f).fault = s.fault := rfl
@[simp] theorem State.setFb_events (f : FrameBuffer) : (s.setFb f).events = s.events := rfl
@[simp] theorem State.setFb_script (f : FrameBuffer) : (s.setFb f).script = s.script := rfl
@[simp] theorem State.setFb_cycles (f : FrameBuffer) : (s.setFb f).cycles = s.cycles := rfl
@[simp] theorem State.setFb_build (f : FrameBuffer) : (s.setFb f).build = s.build := rfl
@[simp] theorem State.setFb_reg (f : FrameBuffer) (x : RegIdx) : (s.setFb f).reg x = s.reg x := rfl
@[simp] theorem State.setFb_inputs (f : FrameBuffer) : (s.setFb f).inputs = s.inputs := rfl

/-! ### setMem -/

@[simp] theorem State.setMem_v (m : Memory) : (s.setMem m).v = s.v := rfl
@[simp] theorem State.setMem_I (m : Memory) : (s.setMem m).I = s.I := rfl
@[simp] theorem State.setMem_pc (m : Memory) : (s.setMem m).pc = s.pc := rfl
@[simp] theorem State.setMem_stack (m : Memory) : (s.setMem m).stack = s.stack := rfl
@[simp] theorem State.setMem_DT (m : Memory) : (s.setMem m).DT = s.DT := rfl
@[simp] theorem State.setMem_ST (m : Memory) : (s.setMem m).ST = s.ST := rfl
@[simp] theorem State.setMem_fb (m : Memory) : (s.setMem m).fb = s.fb := rfl
@[simp] theorem State.setMem_mem (m : Memory) : (s.setMem m).mem = m := rfl
@[simp] theorem State.setMem_fault (m : Memory) : (s.setMem m).fault = s.fault := rfl
@[simp] theorem State.setMem_events (m : Memory) : (s.setMem m).events = s.events := rfl
@[simp] theorem State.setMem_script (m : Memory) : (s.setMem m).script = s.script := rfl
@[simp] theorem State.setMem_cycles (m : Memory) : (s.setMem m).cycles = s.cycles := rfl
@[simp] theorem State.setMem_build (m : Memory) : (s.setMem m).build = s.build := rfl
@[simp] theorem State.setMem_reg (m : Memory) (x : RegIdx) : (s.setMem m).reg x = s.reg x := rfl
@[simp] theorem State.setMem_inputs (m : Memory) : (s.setMem m).inputs = s.inputs := rfl

/-! ### setFault -/

@[simp] theorem State.setFault_v (r : FaultRecord) : (s.setFault r).v = s.v := rfl
@[simp] theorem State.setFault_I (r : FaultRecord) : (s.setFault r).I = s.I := rfl
@[simp] theorem State.setFault_pc (r : FaultRecord) : (s.setFault r).pc = s.pc := rfl
@[simp] theorem State.setFault_stack (r : FaultRecord) : (s.setFault r).stack = s.stack := rfl
@[simp] theorem State.setFault_DT (r : FaultRecord) : (s.setFault r).DT = s.DT := rfl
@[simp] theorem State.setFault_ST (r : FaultRecord) : (s.setFault r).ST = s.ST := rfl
@[simp] theorem State.setFault_fb (r : FaultRecord) : (s.setFault r).fb = s.fb := rfl
@[simp] theorem State.setFault_mem (r : FaultRecord) : (s.setFault r).mem = s.mem := rfl
@[simp] theorem State.setFault_fault (r : FaultRecord) : (s.setFault r).fault = some r := rfl
@[simp] theorem State.setFault_events (r : FaultRecord) : (s.setFault r).events = s.events := rfl
@[simp] theorem State.setFault_script (r : FaultRecord) : (s.setFault r).script = s.script := rfl
@[simp] theorem State.setFault_cycles (r : FaultRecord) : (s.setFault r).cycles = s.cycles := rfl
@[simp] theorem State.setFault_build (r : FaultRecord) : (s.setFault r).build = s.build := rfl
@[simp] theorem State.setFault_reg (r : FaultRecord) (x : RegIdx) : (s.setFault r).reg x = s.reg x := rfl
@[simp] theorem State.setFault_inputs (r : FaultRecord) : (s.setFault r).inputs = s.inputs := rfl

/-! ### emit -/

@[simp] theorem State.emit_v (e : Event) : (s.emit e).v = s.v := rfl
@[simp] theorem State.emit_I (e : Event) : (s.emit e).I = s.I := rfl
@[simp] theorem State.emit_pc (e : Event) : (s.emit e).pc = s.pc := rfl
@[simp] theorem State.emit_stack (e : Event) : (s.emit e).stack = s.stack := rfl
@[simp] theorem State.emit_DT (e : Event) : (s.emit e).DT = s.DT := rfl
@[simp] theorem State.emit_ST (e : Event) : (s.emit e).ST = s.ST := rfl
@[simp] theorem State.emit_fb (e : Event) : (s.emit e).fb = s.fb := rfl
@[simp] theorem State.emit_mem (e : Event) : (s.emit e).mem = s.mem := rfl
@[simp] theorem State.emit_fault (e : Event) : (s.emit e).fault = s.fault := rfl
@[simp] theorem State.emit_events (e : Event) : (s.emit e).events = e :: s.events := rfl
@[simp] theorem State.emit_script (e : Event) : (s.emit e).script = s.script := rfl
@[simp] theorem State.emit_cycles (e : Event) : (s.emit e).cycles = s.cycles := rfl
@[simp] theorem State.emit_build (e : Event) : (s.emit e).build = s.build := rfl
@[simp] theorem State.emit_reg (e : Event) (x : RegIdx) : (s.emit e).reg x = s.reg x := rfl
@[simp] theorem State.emit_inputs (e : Event) : (s.emit e).inputs = s.inputs := rfl

/-! ### advance -/

@[simp] theorem State.advance_v : s.advance.v = s.v := rfl
@[simp] theorem State.advance_I : s.advance.I = s.I := rfl
@[simp] theorem State.advance_pc : s.advance.pc = s.pc + 2 := rfl
@[simp] theorem State.advance_stack : s.advance.stack = s.stack := rfl
@[simp] theorem State.advance_DT : s.advance.DT = s.DT := rfl
@[simp] theorem State.advance_ST : s.advance.ST = s.ST := rfl
@[simp] theorem State.advance_fb : s.advance.fb = s.fb := rfl
@[simp] theorem State.advance_mem : s.advance.mem = s.mem := rfl
@[simp] theorem State.advance_fault : s.advance.fault = s.fault := rfl
@[simp] theorem State.advance_events : s.advance.events = s.events := rfl
@[simp] theorem State.advance_script : s.advance.script = s.script := rfl
@[simp] theorem State.advance_cycles : s.advance.cycles = s.cycles := rfl
@[simp] theorem State.advance_build : s.advance.build = s.build := rfl
@[simp] theorem State.advance_reg (x : RegIdx) : s.advance.reg x = s.reg x := rfl
@[simp] theorem State.advance_inputs : s.advance.inputs = s.inputs := rfl

/-! ### skipIf -/

@[simp] theorem State.skipIf_v (c : Bool) : (s.skipIf c).v = s.v := rfl
@[simp] theorem State.skipIf_I (c : Bool) : (s.skipIf c).I = s.I := rfl
@[simp] theorem State.skipIf_stack (c : Bool) : (s.skipIf c).stack = s.stack := rfl
@[simp] theorem State.skipIf_DT (c : Bool) : (s.skipIf c).DT = s.DT := rfl
@[simp] theorem State.skipIf_ST (c : Bool) : (s.skipIf c).ST = s.ST := rfl
@[simp] theorem State.skipIf_fb (c : Bool) : (s.skipIf c).fb = s.fb := rfl
@[simp] theorem State.skipIf_mem (c : Bool) : (s.skipIf c).mem = s.mem := rfl
@[simp] theorem State.skipIf_fault (c : Bool) : (s.skipIf c).fault = s.fault := rfl
@[simp] theorem State.skipIf_events (c : Bool) : (s.skipIf c).events = s.events := rfl
@[simp] theorem State.skipIf_script (c : Bool) : (s.skipIf c).script = s.script := rfl
@[simp] theorem State.skipIf_cycles (c : Bool) : (s.skipIf c).cycles = s.cycles := rfl
@[simp] theorem State.skipIf_build (c : Bool) : (s.skipIf c).build = s.build := rfl
@[simp] theorem State.skipIf_pc (c : Bool) : (s.skipIf c).pc = if c then s.pc + 2 else s.pc := rfl
@[simp] theorem State.skipIf_reg (c : Bool) (x : RegIdx) : (s.skipIf c).reg x = s.reg x := rfl
@[simp] theorem State.skipIf_inputs (c : Bool) : (s.skipIf c).inputs = s.inputs := rfl

/-! ### rewindIf -/

@[simp] theorem State.rewindIf_v (c : Bool) : (s.rewindIf c).v = s.v := rfl
@[simp] theorem State.rewindIf_I (c : Bool) : (s.rewindIf c).I = s.I := rfl
@[simp] theorem State.rewindIf_stack (c : Bool) : (s.rewindIf c).stack = s.stack := rfl
@[simp] theorem State.rewindIf_DT (c : Bool) : (s.rewindIf c).DT = s.DT := rfl
@[simp] theorem State.rewindIf_ST (c : Bool) : (s.rewindIf c).ST = s.ST := rfl
@[simp] theorem State.rewindIf_fb (c : Bool) : (s.rewindIf c).fb = s.fb := rfl
@[simp] theorem State.rewindIf_mem (c : Bool) : (s.rewindIf c).mem = s.mem := rfl
@[simp] theorem State.rewindIf_fault (c : Bool) : (s.rewindIf c).fault = s.fault := rfl
@[simp] theorem State.rewindIf_events (c : Bool) : (s.rewindIf c).events = s.events := rfl
@[simp] theorem State.rewindIf_script (c : Bool) : (s.rewindIf c).script = s.script := rfl
@[simp] theorem State.rewindIf_cycles (c : Bool) : (s.rewindIf c).cycles = s.cycles := rfl
@[simp] theorem State.rewindIf_build (c : Bool) : (s.rewindIf c).build = s.build := rfl
@[simp] theorem State.rewindIf_pc (c : Bool) : (s.rewindIf c).pc = if c then s.pc - 2 else s.pc := rfl
@[simp] theorem State.rewindIf_reg (c : Bool) (x : RegIdx) : (s.rewindIf c).reg x = s.reg x := rfl
@[simp] theorem State.rewindIf_inputs (c : Bool) : (s.rewindIf c).inputs = s.inputs := rfl

/-! ### raise -/

@[simp] theorem State.raise_v (f : Fault) (a : PcWord) (o : Option Word) : (s.raise f a o).v = s.v := rfl
@[simp] theorem State.raise_I (f : Fault) (a : PcWord) (o : Option Word) : (s.raise f a o).I = s.I := rfl
@[simp] theorem State.raise_pc (f : Fault) (a : PcWord) (o : Option Word) : (s.raise f a o).pc = s.pc := rfl
@[simp] theorem State.raise_stack (f : Fault) (a : PcWord) (o : Option Word) : (s.raise f a o).stack = s.stack := rfl
@[simp] theorem State.raise_DT (f : Fault) (a : PcWord) (o : Option Word) : (s.raise f a o).DT = s.DT := rfl
@[simp] theorem State.raise_ST (f : Fault) (a : PcWord) (o : Option Word) : (s.raise f a o).ST = s.ST := rfl
@[simp] theorem State.raise_fb (f : Fault) (a : PcWord) (o : Option Word) : (s.raise f a o).fb = s.fb := rfl
@[simp] theorem State.raise_mem (f : Fault) (a : PcWord) (o : Option Word) : (s.raise f a o).mem = s.mem := rfl
@[simp] theorem State.raise_fault (f : Fault) (a : PcWord) (o : Option Word) : (s.raise f a o).fault = some { cause := f, pc := a, opcode := o } := rfl
@[simp] theorem State.raise_events (f : Fault) (a : PcWord) (o : Option Word) : (s.raise f a o).events = s.events := rfl
@[simp] theorem State.raise_script (f : Fault) (a : PcWord) (o : Option Word) : (s.raise f a o).script = s.script := rfl
@[simp] theorem State.raise_cycles (f : Fault) (a : PcWord) (o : Option Word) : (s.raise f a o).cycles = s.cycles := rfl
@[simp] theorem State.raise_build (f : Fault) (a : PcWord) (o : Option Word) : (s.raise f a o).build = s.build := rfl
@[simp] theorem State.raise_reg (f : Fault) (a : PcWord) (o : Option Word) (x : RegIdx) : (s.raise f a o).reg x = s.reg x := rfl
@[simp] theorem State.raise_inputs (f : Fault) (a : PcWord) (o : Option Word) : (s.raise f a o).inputs = s.inputs := rfl

/-! ### runTicks -/

@[simp] theorem runTicks_v (j k : Nat) : (runTicks j k s).v = s.v := rfl
@[simp] theorem runTicks_I (j k : Nat) : (runTicks j k s).I = s.I := rfl
@[simp] theorem runTicks_pc (j k : Nat) : (runTicks j k s).pc = s.pc := rfl
@[simp] theorem runTicks_stack (j k : Nat) : (runTicks j k s).stack = s.stack := rfl
@[simp] theorem runTicks_DT (j k : Nat) : (runTicks j k s).DT = countDownBy j s.DT := rfl
@[simp] theorem runTicks_ST (j k : Nat) : (runTicks j k s).ST = countDownBy k s.ST := rfl
@[simp] theorem runTicks_fb (j k : Nat) : (runTicks j k s).fb = s.fb := rfl
@[simp] theorem runTicks_mem (j k : Nat) : (runTicks j k s).mem = s.mem := rfl
@[simp] theorem runTicks_fault (j k : Nat) : (runTicks j k s).fault = s.fault := rfl
@[simp] theorem runTicks_events (j k : Nat) : (runTicks j k s).events = beepsBy k s.ST ++ s.events := rfl
@[simp] theorem runTicks_script (j k : Nat) : (runTicks j k s).script = s.script := rfl
@[simp] theorem runTicks_cycles (j k : Nat) : (runTicks j k s).cycles = s.cycles := rfl
@[simp] theorem runTicks_build (j k : Nat) : (runTicks j k s).build = s.build := rfl
@[simp] theorem runTicks_reg (j k : Nat) (r : RegIdx) : (runTicks j k s).reg r = s.reg r := rfl

/-! ### spendInputs -/

@[simp] theorem spendInputs_v : (spendInputs s).v = s.v := rfl
@[simp] theorem spendInputs_I : (spendInputs s).I = s.I := rfl
@[simp] theorem spendInputs_pc : (spendInputs s).pc = s.pc := rfl
@[simp] theorem spendInputs_stack : (spendInputs s).stack = s.stack := rfl
@[simp] theorem spendInputs_DT : (spendInputs s).DT = s.DT := rfl
@[simp] theorem spendInputs_ST : (spendInputs s).ST = s.ST := rfl
@[simp] theorem spendInputs_fb : (spendInputs s).fb = s.fb := rfl
@[simp] theorem spendInputs_mem : (spendInputs s).mem = s.mem := rfl
@[simp] theorem spendInputs_fault : (spendInputs s).fault = s.fault := rfl
@[simp] theorem spendInputs_events : (spendInputs s).events = s.events := rfl
@[simp] theorem spendInputs_script : (spendInputs s).script = s.script.tail := rfl
@[simp] theorem spendInputs_cycles : (spendInputs s).cycles = s.cycles + 1 := rfl
@[simp] theorem spendInputs_build : (spendInputs s).build = s.build := rfl
@[simp] theorem spendInputs_reg (r : RegIdx) : (spendInputs s).reg r = s.reg r := rfl

end Sys2Proof.Machine
end

