-- ==== Sys2Proof/Laws/Registers.lean ====
section
/-! SUPPORT. Reading a register after a write (spec/10_state.md R11), the two write orders of spec/41_alu.md R90, and the
register lists of STM and LDM. -/

namespace Sys2Proof.Machine

theorem State.reg_setReg (s : State) (x r : RegIdx) (b : Byte) :
    (s.setReg x b).reg r = if r = x then b else s.reg r := by
  unfold State.reg State.setReg
  by_cases h : r = x
  · subst h; simp
  · have hn : x.toNat ≠ r.toNat := fun e => h (BitVec.eq_of_toNat_eq e.symm)
    simp [h, hn]

@[simp] theorem State.reg_setReg_same (s : State) (x : RegIdx) (b : Byte) : (s.setReg x b).reg x = b := by
  simp [State.reg_setReg]

@[simp] theorem State.reg_setReg_ne (s : State) {x r : RegIdx} (b : Byte) (h : r ≠ x) :
    (s.setReg x b).reg r = s.reg r := by
  simp [State.reg_setReg, h]

/-- With `x = 15` the flag stands (R90). -/
theorem State.reg_resultThenFlag (s : State) (x r : RegIdx) (b f : Byte) :
    (s.resultThenFlag x b f).reg r = if r = vF then f else if r = x then b else s.reg r := by
  simp [State.resultThenFlag, State.reg_setReg]

/-- With `x = 15` the result stands (R90). -/
theorem State.reg_flagThenResult (s : State) (x r : RegIdx) (b f : Byte) :
    (s.flagThenResult x b f).reg r = if r = x then b else if r = vF then f else s.reg r := by
  simp [State.flagThenResult, State.reg_setReg]

/-! The two write orders change the general registers alone. -/

section

variable (s : State) (x : RegIdx) (b f : Byte)

@[simp] theorem State.resultThenFlag_I : (s.resultThenFlag x b f).I = s.I := rfl
@[simp] theorem State.resultThenFlag_pc : (s.resultThenFlag x b f).pc = s.pc := rfl
@[simp] theorem State.resultThenFlag_stack : (s.resultThenFlag x b f).stack = s.stack := rfl
@[simp] theorem State.resultThenFlag_DT : (s.resultThenFlag x b f).DT = s.DT := rfl
@[simp] theorem State.resultThenFlag_ST : (s.resultThenFlag x b f).ST = s.ST := rfl
@[simp] theorem State.resultThenFlag_fb : (s.resultThenFlag x b f).fb = s.fb := rfl
@[simp] theorem State.resultThenFlag_mem : (s.resultThenFlag x b f).mem = s.mem := rfl
@[simp] theorem State.resultThenFlag_fault : (s.resultThenFlag x b f).fault = s.fault := rfl
@[simp] theorem State.resultThenFlag_events : (s.resultThenFlag x b f).events = s.events := rfl
@[simp] theorem State.resultThenFlag_script : (s.resultThenFlag x b f).script = s.script := rfl
@[simp] theorem State.resultThenFlag_cycles : (s.resultThenFlag x b f).cycles = s.cycles := rfl
@[simp] theorem State.resultThenFlag_build : (s.resultThenFlag x b f).build = s.build := rfl
@[simp] theorem State.resultThenFlag_inputs : (s.resultThenFlag x b f).inputs = s.inputs := rfl

@[simp] theorem State.flagThenResult_I : (s.flagThenResult x b f).I = s.I := rfl
@[simp] theorem State.flagThenResult_pc : (s.flagThenResult x b f).pc = s.pc := rfl
@[simp] theorem State.flagThenResult_stack : (s.flagThenResult x b f).stack = s.stack := rfl
@[simp] theorem State.flagThenResult_DT : (s.flagThenResult x b f).DT = s.DT := rfl
@[simp] theorem State.flagThenResult_ST : (s.flagThenResult x b f).ST = s.ST := rfl
@[simp] theorem State.flagThenResult_fb : (s.flagThenResult x b f).fb = s.fb := rfl
@[simp] theorem State.flagThenResult_mem : (s.flagThenResult x b f).mem = s.mem := rfl
@[simp] theorem State.flagThenResult_fault : (s.flagThenResult x b f).fault = s.fault := rfl
@[simp] theorem State.flagThenResult_events : (s.flagThenResult x b f).events = s.events := rfl
@[simp] theorem State.flagThenResult_script : (s.flagThenResult x b f).script = s.script := rfl
@[simp] theorem State.flagThenResult_cycles : (s.flagThenResult x b f).cycles = s.cycles := rfl
@[simp] theorem State.flagThenResult_build : (s.flagThenResult x b f).build = s.build := rfl
@[simp] theorem State.flagThenResult_inputs : (s.flagThenResult x b f).inputs = s.inputs := rfl

end

@[simp] theorem flagByte_toNat (c : Bool) : (flagByte c).toNat = if c then 1 else 0 := by
  cases c <;> rfl

@[simp] theorem State.regBytes_length (s : State) (n : Nat) : (s.regBytes n).length = n := by
  induction n with
  | zero => rfl
  | succ n ih => simp [State.regBytes, ih]

theorem State.regBytes_getElem? (s : State) {n k : Nat} (h : k < n) :
    (s.regBytes n)[k]? = some (s.reg (BitVec.ofNat 4 k)) := by
  induction n with
  | zero => omega
  | succ n ih =>
    by_cases hk : k < n
    · rw [State.regBytes, List.getElem?_append_left (by simpa using hk), ih hk]
    · have : k = n := by omega
      subst this
      simp [State.regBytes]

/-- Registers `k` to `k + bytes.length − 1` hold the bytes, every other register is as before. -/
theorem State.reg_setRegsFrom (bytes : List Byte) (s : State) (k : Nat) (r : RegIdx) (h : k + bytes.length ≤ 16) :
    (s.setRegsFrom k bytes).reg r =
      if k ≤ r.toNat ∧ r.toNat < k + bytes.length then bytes.getD (r.toNat - k) 0 else s.reg r := by
  induction bytes generalizing s k with
  | nil =>
    have : ¬(k ≤ r.toNat ∧ r.toNat < k) := by omega
    simp [State.setRegsFrom, this]
  | cons b bs ih =>
    simp only [List.length_cons] at h ⊢
    rw [State.setRegsFrom, ih _ _ (by omega), State.reg_setReg]
    have hk : (BitVec.ofNat 4 k).toNat = k := by simp; omega
    by_cases e : r = BitVec.ofNat 4 k
    · have e' : r.toNat = k := by rw [e, hk]
      have c : ¬(k + 1 ≤ r.toNat ∧ r.toNat < k + 1 + bs.length) := by omega
      have c' : k ≤ r.toNat ∧ r.toNat < k + (bs.length + 1) := by omega
      rw [if_neg c, if_pos e, if_pos c', e', Nat.sub_self, List.getD_cons_zero]
    · have e' : r.toNat ≠ k := fun q => e (BitVec.eq_of_toNat_eq (by rw [hk, q]))
      by_cases c : k + 1 ≤ r.toNat ∧ r.toNat < k + 1 + bs.length
      · have c' : k ≤ r.toNat ∧ r.toNat < k + (bs.length + 1) := by omega
        have d : r.toNat - k = (r.toNat - (k + 1)) + 1 := by omega
        simp only [c, c', and_self, if_true, d, List.getD_cons_succ]
      · have c' : ¬(k ≤ r.toNat ∧ r.toNat < k + (bs.length + 1)) := by omega
        rw [if_neg c, if_neg c', if_neg e]

/-- Writing a list of registers changes `v` alone. -/
theorem State.setRegsFrom_eq (bytes : List Byte) (s : State) (k : Nat) :
    s.setRegsFrom k bytes = { s with v := (s.setRegsFrom k bytes).v } := by
  induction bytes generalizing s k with
  | nil => rfl
  | cons b bs ih =>
    rw [State.setRegsFrom, ih]
    rfl

/-- The bytes of a register list come from the registers alone. -/
theorem State.regBytes_congr {s t : State} (h : t.v = s.v) (n : Nat) : t.regBytes n = s.regBytes n := by
  induction n with
  | zero => rfl
  | succ n ih => simp [State.regBytes, ih, State.reg, h]

/-- Writing a list of registers reads nothing but the registers. -/
theorem State.setRegsFrom_v_congr (bytes : List Byte) {s t : State} (h : t.v = s.v) (k : Nat) :
    (t.setRegsFrom k bytes).v = (s.setRegsFrom k bytes).v := by
  induction bytes generalizing s t k with
  | nil => exact h
  | cons b bs ih => exact ih (by simp [State.setReg, h]) _

end Sys2Proof.Machine
end

