-- ==== Sys2Proof/Laws/Ops.lean ====
section
/-! SUPPORT. For each shared operation, everything it can do, said once. -/

namespace Sys2Proof.Machine

/-- A raise answers the state with the record and nothing else changed (R156). -/
theorem raiseIn_next {i : Instr} {f : Fault} {s t : State} (h : raiseIn i f s = .next t) :
    t = s.raise f (s.pc - 2) (some (encode i)) := by
  simpa [raiseIn] using h.symm

/-- `push` (R20). -/
theorem State.push_eq (s : State) (w : PcWord) :
    s.push w = if s.sp < Config.stackDepth then .ok (s.setStack (w :: s.stack)) else .error (.stackOverflow w) := rfl

/-- `pop` of a stack that holds something (R21). -/
theorem State.pop_cons {s : State} {w : PcWord} {rest : List PcWord} (h : s.stack = w :: rest) :
    s.pop = .ok (w, s.setStack rest) := by
  simp [State.pop, h]

/-- `pop` of an empty stack (R21). -/
theorem State.pop_nil {s : State} (h : s.stack = []) : s.pop = .error .stackUnderflow := by
  simp [State.pop, h]

/-- A skip moves `pc` by 2 or not at all (R16). -/
theorem State.skipIf_eq (s : State) (c : Bool) : s.skipIf c = s.setPc (if c then s.pc + 2 else s.pc) := rfl

/-- A repeat moves `pc` back by 2 or not at all (R16). -/
theorem State.rewindIf_eq (s : State) (c : Bool) : s.rewindIf c = s.setPc (if c then s.pc - 2 else s.pc) := rfl

/-- A store from `I` that is in range (R48). -/
theorem storeAtI_ok {i : Instr} {bs : List Byte} {s : State} (h : s.dataBase + bs.length ≤ Config.memSize) :
    storeAtI i bs s = .next (s.setMem (Memory.writeBytes s.mem s.dataBase bs)) := by
  simp [storeAtI, Memory.writeSpan, h]

/-- A store from `I` that is not in range changes nothing but the fault record (R48, R152). -/
theorem storeAtI_fault {i : Instr} {bs : List Byte} {s : State} (hn : bs ≠ [])
    (h : Config.memSize < s.dataBase + bs.length) :
    storeAtI i bs s = raiseIn i (.memoryBounds (max s.dataBase Config.memSize) .write) s := by
  have : ¬(bs = [] ∨ s.dataBase + bs.length ≤ Config.memSize) := by
    rintro (h' | h')
    · exact hn h'
    · omega
  simp only [storeAtI, Memory.writeSpan, this, if_false]

/-- Everything a store from `I` can do. -/
theorem storeAtI_cases {i : Instr} {bs : List Byte} {s t : State} (h : storeAtI i bs s = .next t) :
    (t = s.setMem (Memory.writeBytes s.mem s.dataBase bs) ∧ (bs = [] ∨ s.dataBase + bs.length ≤ Config.memSize)) ∨
      (t = s.raise (.memoryBounds (max s.dataBase Config.memSize) .write) (s.pc - 2) (some (encode i)) ∧
        Config.memSize < s.dataBase + bs.length) := by
  unfold storeAtI at h
  split at h
  · rename_i m hm
    obtain ⟨h1, rfl⟩ := Memory.writeSpan_ok hm
    exact .inl ⟨by simpa using h.symm, h1⟩
  · rename_i f hf
    obtain ⟨h1, rfl⟩ := Memory.writeSpan_error hf
    exact .inr ⟨raiseIn_next h, h1⟩

/-- A load of registers that is in range (R116). -/
theorem execLdm_ok {x : RegIdx} {s : State} (h : s.dataBase + (x.toNat + 1) ≤ Config.memSize) :
    execLdm x s = .next (s.setRegsFrom 0 ((List.range' s.dataBase (x.toNat + 1)).map (Memory.read s.mem))) := by
  have h' : x.toNat + 1 = 0 ∨ s.dataBase + (x.toNat + 1) ≤ Config.memSize := .inr h
  simp only [execLdm, Memory.readSpan_eq, h', if_true]

/-- A load of registers that is not in range (R116, R48). -/
theorem execLdm_fault {x : RegIdx} {s : State} (h : Config.memSize < s.dataBase + (x.toNat + 1)) :
    execLdm x s = raiseIn (.ldm x) (.memoryBounds (max s.dataBase Config.memSize) .read) s := by
  have h' : ¬(x.toNat + 1 = 0 ∨ s.dataBase + (x.toNat + 1) ≤ Config.memSize) := by omega
  simp only [execLdm, Memory.readSpan_eq, h', if_false]

/-- The rows a sprite reads, where they all exist (R123 step 1). -/
theorem execDrw_rows {x y : RegIdx} {n : BitVec 4} {s : State}
    (h : n.toNat = 0 ∨ s.dataBase + n.toNat ≤ Config.memSize) :
    execDrw x y n s = drawRows (.drw x y n) (spriteColumn (s.reg x)) (s.reg y).toNat
      ((List.range' s.dataBase n.toNat).map (Memory.read s.mem)) s := by
  simp only [execDrw, Memory.readSpan_eq, h, if_true]

/-- A sprite whose rows do not all exist (R123 step 1, R152). -/
theorem execDrw_fault {x y : RegIdx} {n : BitVec 4} {s : State}
    (h : ¬(n.toNat = 0 ∨ s.dataBase + n.toNat ≤ Config.memSize)) :
    execDrw x y n s = raiseIn (.drw x y n) (.memoryBounds (max s.dataBase Config.memSize) .read) s := by
  simp only [execDrw, Memory.readSpan_eq, h, if_false]

/-- Everything the drawing phase can do (R123 steps 2 to 4). -/
theorem drawRows_cases {i : Instr} {x0 y0 : Nat} {rows : List Byte} {s t : State}
    (h : drawRows i x0 y0 rows s = .next t) :
    (t = (s.setFb (FrameBuffer.flipAll s.fb (spritePixels x0 y0 rows))).emit .present ∧
        ∀ p ∈ spritePixels x0 y0 rows, offGrid p = false) ∨
      ∃ p, (spritePixels x0 y0 rows).find? offGrid = some p ∧
        t = s.raise (.displayBounds p.1 p.2) (s.pc - 2) (some (encode i)) := by
  unfold drawRows at h
  split at h
  · rename_i p hp
    exact .inr ⟨p, hp, raiseIn_next h⟩
  · rename_i hp
    refine .inl ⟨by simpa using h.symm, fun p hm => ?_⟩
    simpa using List.find?_eq_none.mp hp p hm

end Sys2Proof.Machine
end

