-- ==== Sys2Proof/Laws/Timers.lean ====
section
/-! SUPPORT. The timer agent: a run of ticks is so many single ticks (spec/60_exceptions.md R165 to R168). -/

namespace Sys2Proof.Machine

theorem countDown_toNat (t : Byte) : (countDown t).toNat = t.toNat - 1 := by
  unfold countDown
  split
  · subst_vars; rfl
  · rename_i h
    have h0 : t.toNat ≠ 0 := fun e => h (BitVec.eq_of_toNat_eq (by simpa using e))
    have h1 := t.isLt
    have h2 : (1 : Byte).toNat = 1 := rfl
    rw [BitVec.toNat_sub, h2]
    omega

@[simp] theorem runTicks_zero (s : State) : runTicks 0 0 s = s := rfl

/-- One more tick of the delay timer, taken first. -/
theorem runTicks_succ_dt (j k : Nat) (s : State) (h : s.fault = none) :
    runTicks (j + 1) k s = runTicks j k (tickDT s) := by
  simp [runTicks, tickDT, h, State.setDT, countDownBy]

/-- One more tick of the sound timer, taken first. -/
theorem runTicks_succ_st (j k : Nat) (s : State) (h : s.fault = none) :
    runTicks j (k + 1) s = runTicks j k (tickST s) := by
  simp [runTicks, tickST, h, countDownBy, beepsBy]

/-- Ticks of the two timers commute (R167). -/
theorem tickDT_tickST_comm (s : State) : tickDT (tickST s) = tickST (tickDT s) := by
  unfold tickDT tickST
  cases h : s.fault <;> simp [h, State.setDT]

/-- Everything that happens between two cycles: nothing to the parts a tick or an input does not name. -/
theorem betweenCycles_running {s : State} (h : s.fault = none) :
    betweenCycles s = spendInputs (runTicks s.inputs.ticksDT s.inputs.ticksST s) := by
  simp [betweenCycles, h]

theorem betweenCycles_halted {s : State} (h : s.fault ≠ none) : betweenCycles s = s := by
  unfold betweenCycles
  cases hf : s.fault
  · exact absurd hf h
  · rfl

@[simp] theorem betweenCycles_fault (s : State) : (betweenCycles s).fault = s.fault := by
  unfold betweenCycles; cases h : s.fault <;> simp [h]

@[simp] theorem betweenCycles_pc (s : State) : (betweenCycles s).pc = s.pc := by
  unfold betweenCycles; cases h : s.fault <;> simp

@[simp] theorem betweenCycles_mem (s : State) : (betweenCycles s).mem = s.mem := by
  unfold betweenCycles; cases h : s.fault <;> simp

@[simp] theorem betweenCycles_stack (s : State) : (betweenCycles s).stack = s.stack := by
  unfold betweenCycles; cases h : s.fault <;> simp

@[simp] theorem betweenCycles_v (s : State) : (betweenCycles s).v = s.v := by
  unfold betweenCycles; cases h : s.fault <;> simp

@[simp] theorem betweenCycles_I (s : State) : (betweenCycles s).I = s.I := by
  unfold betweenCycles; cases h : s.fault <;> simp

@[simp] theorem betweenCycles_fb (s : State) : (betweenCycles s).fb = s.fb := by
  unfold betweenCycles; cases h : s.fault <;> simp

@[simp] theorem betweenCycles_build (s : State) : (betweenCycles s).build = s.build := by
  unfold betweenCycles; cases h : s.fault <;> simp

end Sys2Proof.Machine
end

