-- ==== Sys2Proof/Laws/Cycle.lean ====
section
/-! SUPPORT. The step, said once: the three things it can be (spec/30_encoding.md R60, spec/60_exceptions.md R156 to R158,
R170), and a run of ticks in numbers (R165, R168). -/

namespace Sys2Proof.Machine

/-- A halted core does nothing (R157). -/
theorem step_halted {s : State} (h : s.fault ≠ none) : step s = .next s := by
  unfold step requestCycle
  cases hf : s.fault
  · exact absurd hf h
  · rfl

/-- A fetch that cannot be made (R152, R158). -/
theorem step_fetch_fault {s : State} (h : s.fault = none) (hp : ¬s.pc.toNat + 2 ≤ Config.memSize) :
    step s = .next (s.raise (.memoryBounds (max s.pc.toNat Config.memSize) .fetch) s.pc none) := by
  simp only [step, requestCycle, h, cycle, Memory.fetchWord_eq, hp, if_false, afterCycle]
  rfl

/-- A step that fetches executes the decoded instruction with `pc = a + 2` (R60, R15). -/
theorem step_running {s : State} (h : s.fault = none) (hp : s.pc.toNat + 2 ≤ Config.memSize) :
    step s = afterCycle (exec (decodeWord (joinBytes (Memory.read s.mem s.pc.toNat)
      (Memory.read s.mem (s.pc.toNat + 1)))) s.advance) := by
  simp only [step, requestCycle, h, cycle, Memory.fetchWord_eq, hp, if_true]

/-- Everything a step that answers a next state can have done. -/
theorem step_cases {s t : State} (h : step s = .next t) :
    (s.fault ≠ none ∧ t = s) ∨
      (s.fault = none ∧ ¬s.pc.toNat + 2 ≤ Config.memSize ∧
        t = s.raise (.memoryBounds (max s.pc.toNat Config.memSize) .fetch) s.pc none) ∨
      (s.fault = none ∧ s.pc.toNat + 2 ≤ Config.memSize ∧
        ∃ u, exec (decodeWord (joinBytes (Memory.read s.mem s.pc.toNat) (Memory.read s.mem (s.pc.toNat + 1))))
          s.advance = .next u ∧ t = betweenCycles u) := by
  by_cases hf : s.fault = none
  · by_cases hp : s.pc.toNat + 2 ≤ Config.memSize
    · rw [step_running hf hp] at h
      cases he : exec (decodeWord (joinBytes (Memory.read s.mem s.pc.toNat)
          (Memory.read s.mem (s.pc.toNat + 1)))) s.advance with
      | next u => exact .inr (.inr ⟨hf, hp, u, rfl, by simpa [he, afterCycle] using h.symm⟩)
      | fault r => simp [he, afterCycle] at h
      | refused r => simp [he, afterCycle] at h
    · rw [step_fetch_fault hf hp] at h
      exact .inr (.inl ⟨hf, hp, by simpa using h.symm⟩)
  · rw [step_halted hf] at h
    exact .inl ⟨hf, by simpa using h.symm⟩

theorem countDownBy_toNat (k : Nat) (t : Byte) : (countDownBy k t).toNat = t.toNat - k := by
  induction k generalizing t with
  | zero => rfl
  | succ k ih => rw [countDownBy, ih, countDown_toNat]; omega

/-- One tick emits as many `Beep`s as multiples of 30 are passed by it. -/
theorem tickEvents_eq (t : Byte) :
    tickEvents t = List.replicate ((t.toNat - 1) / 30 - (t.toNat - 1 - 1) / 30) Event.beep := by
  revert t
  decide

/-- A run of ticks emits one `Beep` for each non-zero multiple of 30 passed through (R168). -/
theorem beepsBy_eq (k : Nat) (t : Byte) :
    beepsBy k t = List.replicate ((t.toNat - 1) / 30 - (t.toNat - 1 - k) / 30) Event.beep := by
  induction k generalizing t with
  | zero => simp [beepsBy]
  | succ k ih =>
    rw [beepsBy, ih, tickEvents_eq, List.replicate_append_replicate, countDown_toNat]
    congr 1
    omega

theorem tickDT_fault (s : State) : (tickDT s).fault = s.fault := by
  unfold tickDT
  cases h : s.fault <;> simp [h]

theorem tickST_fault (s : State) : (tickST s).fault = s.fault := by
  unfold tickST
  cases h : s.fault <;> simp [h]

/-- Repeated ticks of the delay timer are one run of ticks. -/
theorem iterate_tickDT (k : Nat) {s : State} (h : s.fault = none) : tickDT^[k] s = runTicks k 0 s := by
  induction k generalizing s with
  | zero => rfl
  | succ k ih =>
    rw [Function.iterate_succ_apply, ih (by rw [tickDT_fault, h]), runTicks_succ_dt k 0 s h]

/-- Repeated ticks of the sound timer are one run of ticks. -/
theorem iterate_tickST (k : Nat) {s : State} (h : s.fault = none) : tickST^[k] s = runTicks 0 k s := by
  induction k generalizing s with
  | zero => rfl
  | succ k ih =>
    rw [Function.iterate_succ_apply, ih (by rw [tickST_fault, h]), runTicks_succ_st 0 k s h]

end Sys2Proof.Machine
end

