-- ==== Sys2Proof/Laws/Encoding.lean ====
section
/-! SUPPORT. The fields of a packed opcode, a word is its fields, and what a row of the table selects
(spec/30_encoding.md R62, R63, R71). -/

namespace Sys2Proof

/-! ## The fields of what the encoder packs

Each is a statement about an append at the width 16 = 4 + 12, so the library's lemma is given as a term. -/

@[simp] theorem opCat_packAddr (c : BitVec 4) (a : Addr12) : opCat (packAddr c a) = c :=
  BitVec.extractLsb'_append_eq_left (a := c) (b := a)

@[simp] theorem opNNN_packAddr (c : BitVec 4) (a : Addr12) : opNNN (packAddr c a) = a :=
  BitVec.extractLsb'_append_eq_right (a := c) (b := a)

theorem opNN_eq_setWidth (w : Word) : opNN w = (opNNN w).setWidth 8 := by
  apply BitVec.eq_of_getLsbD_eq
  intro i hi
  simp only [opNN, opNNN, BitVec.getLsbD_setWidth, BitVec.getLsbD_extractLsb', hi, decide_true, Bool.true_and]
  have : i < 12 := by omega
  simp [this]

theorem opX_eq_extract (w : Word) : opX w = (opNNN w).extractLsb' 8 4 := by
  apply BitVec.eq_of_getLsbD_eq
  intro i hi
  simp only [opX, opNNN, BitVec.getLsbD_extractLsb', hi, decide_true, Bool.true_and]
  have : 8 + i < 12 := by omega
  simp [this]

theorem opY_eq_extract (w : Word) : opY w = (opNN w).extractLsb' 4 4 := by
  apply BitVec.eq_of_getLsbD_eq
  intro i hi
  simp only [opY, opNN, BitVec.getLsbD_extractLsb', hi, decide_true, Bool.true_and]
  have : 4 + i < 8 := by omega
  simp [this]

theorem opN_eq_setWidth (w : Word) : opN w = (opNN w).extractLsb' 0 4 := by
  apply BitVec.eq_of_getLsbD_eq
  intro i hi
  simp only [opN, opNN, BitVec.getLsbD_extractLsb', hi, decide_true, Bool.true_and]
  have : i < 8 := by omega
  simp [this]

@[simp] theorem opNN_packAddr (c : BitVec 4) (a : Addr12) : opNN (packAddr c a) = a.setWidth 8 := by
  rw [opNN_eq_setWidth, opNNN_packAddr]

theorem packRI_eq (c : BitVec 4) (x : RegIdx) (nn : Byte) : packRI c x nn = packAddr c (x ++ nn) := rfl

theorem packRR_eq (c : BitVec 4) (x y : RegIdx) (n : BitVec 4) : packRR c x y n = packRI c x (y ++ n) := rfl

@[simp] theorem opCat_packRI (c : BitVec 4) (x : RegIdx) (nn : Byte) : opCat (packRI c x nn) = c :=
  opCat_packAddr c (x ++ nn)

@[simp] theorem opX_packRI (c : BitVec 4) (x : RegIdx) (nn : Byte) : opX (packRI c x nn) = x := by
  rw [opX_eq_extract, packRI_eq, opNNN_packAddr]
  exact BitVec.extractLsb'_append_eq_left

theorem setWidth_append_right (x : RegIdx) (nn : Byte) : BitVec.setWidth 8 (x ++ nn : Addr12) = nn := by
  apply BitVec.eq_of_getLsbD_eq
  intro i hi
  simp only [BitVec.getLsbD_setWidth, BitVec.getLsbD_append, hi, decide_true, Bool.true_and, if_true]

@[simp] theorem opNN_packRI (c : BitVec 4) (x : RegIdx) (nn : Byte) : opNN (packRI c x nn) = nn := by
  rw [packRI_eq, opNN_packAddr]
  exact setWidth_append_right x nn

@[simp] theorem opCat_packRR (c : BitVec 4) (x y : RegIdx) (n : BitVec 4) : opCat (packRR c x y n) = c :=
  opCat_packRI c x (y ++ n)

@[simp] theorem opX_packRR (c : BitVec 4) (x y : RegIdx) (n : BitVec 4) : opX (packRR c x y n) = x :=
  opX_packRI c x (y ++ n)

@[simp] theorem opY_packRR (c : BitVec 4) (x y : RegIdx) (n : BitVec 4) : opY (packRR c x y n) = y := by
  rw [opY_eq_extract, packRR_eq, opNN_packRI]
  exact BitVec.extractLsb'_append_eq_left

@[simp] theorem opN_packRR (c : BitVec 4) (x y : RegIdx) (n : BitVec 4) : opN (packRR c x y n) = n := by
  rw [opN_eq_setWidth, packRR_eq, opNN_packRI]
  exact BitVec.extractLsb'_append_eq_right

/-! ## A word is its fields -/

theorem pack_opAddr (w : Word) : packAddr (opCat w) (opNNN w) = w :=
  BitVec.extractLsb'_append_extractLsb' (w := 4) (len := 12) (x := w)

theorem opNNN_eq_fields (w : Word) : opNNN w = opX w ++ opNN w :=
  (BitVec.extractLsb'_append_extractLsb'_eq_extractLsb' (start₁ := 0) (len₁ := 8) (len₂ := 4) rfl).symm

theorem opNN_eq_fields (w : Word) : opNN w = opY w ++ opN w :=
  (BitVec.extractLsb'_append_extractLsb'_eq_extractLsb' (start₁ := 0) (len₁ := 4) (len₂ := 4) rfl).symm

theorem pack_opRI (w : Word) : packRI (opCat w) (opX w) (opNN w) = w := by
  rw [packRI_eq, ← opNNN_eq_fields, pack_opAddr]

theorem pack_opRR (w : Word) : packRR (opCat w) (opX w) (opY w) (opN w) = w := by
  rw [packRR_eq, ← opNN_eq_fields, pack_opRI]

@[simp] theorem setWidth_opNNN (w : Word) : (opNNN w).setWidth 8 = opNN w := (opNN_eq_setWidth w).symm

/-- The two bytes of an opcode, joined as the fetch joins them (R44). -/
@[simp] theorem joinBytes_bytes (w : Word) : joinBytes (highByte w) (lowByte w) = w :=
  BitVec.extractLsb'_append_extractLsb' (w := 8) (len := 8) (x := w)

/-! ## The fields of a literal opcode -/

theorem opCat_ofNat (n : Nat) : opCat (BitVec.ofNat 16 n) = BitVec.ofNat 4 ((n % 2 ^ 16) >>> 12) := by
  apply BitVec.eq_of_toNat_eq
  simp [opCat, BitVec.extractLsb'_toNat]

theorem opX_ofNat (n : Nat) : opX (BitVec.ofNat 16 n) = BitVec.ofNat 4 ((n % 2 ^ 16) >>> 8) := by
  apply BitVec.eq_of_toNat_eq
  simp [opX, BitVec.extractLsb'_toNat]

theorem opY_ofNat (n : Nat) : opY (BitVec.ofNat 16 n) = BitVec.ofNat 4 ((n % 2 ^ 16) >>> 4) := by
  apply BitVec.eq_of_toNat_eq
  simp [opY, BitVec.extractLsb'_toNat]

theorem opN_ofNat (n : Nat) : opN (BitVec.ofNat 16 n) = BitVec.ofNat 4 ((n % 2 ^ 16) >>> 0) := by
  apply BitVec.eq_of_toNat_eq
  simp [opN, BitVec.extractLsb'_toNat]

theorem opNN_ofNat (n : Nat) : opNN (BitVec.ofNat 16 n) = BitVec.ofNat 8 ((n % 2 ^ 16) >>> 0) := by
  apply BitVec.eq_of_toNat_eq
  simp [opNN, BitVec.extractLsb'_toNat]

theorem opNNN_ofNat (n : Nat) : opNNN (BitVec.ofNat 16 n) = BitVec.ofNat 12 ((n % 2 ^ 16) >>> 0) := by
  apply BitVec.eq_of_toNat_eq
  simp [opNNN, BitVec.extractLsb'_toNat]

/-- An unlisted `N` of category 8 is none of the nine listed ones (R141). -/
theorem ne_of_unlisted8 : ∀ n : BitVec 4, unlisted8 n = true →
    ¬n = 0#4 ∧ ¬n = 1#4 ∧ ¬n = 2#4 ∧ ¬n = 3#4 ∧ ¬n = 4#4 ∧ ¬n = 5#4 ∧ ¬n = 6#4 ∧ ¬n = 7#4 ∧ ¬n = 14#4 := by
  decide

/-! ## What a row selects (R71) -/

theorem append_eq_iff {m n : Nat} (a c : BitVec m) (b d : BitVec n) : a ++ b = c ++ d ↔ a = c ∧ b = d := by
  refine ⟨fun h => ⟨?_, ?_⟩, fun h => by rw [h.1, h.2]⟩
  · have := congrArg (BitVec.extractLsb' n m) h
    rwa [BitVec.extractLsb'_append_eq_left, BitVec.extractLsb'_append_eq_left] at this
  · have := congrArg (BitVec.extractLsb' 0 n) h
    rwa [BitVec.extractLsb'_append_eq_right, BitVec.extractLsb'_append_eq_right] at this

theorem packAddr_and (c d : BitVec 4) (a b : Addr12) :
    packAddr c a &&& packAddr d b = packAddr (c &&& d) (a &&& b) :=
  BitVec.and_append

theorem packAddr_inj (c d : BitVec 4) (a b : Addr12) : packAddr c a = packAddr d b ↔ c = d ∧ a = b :=
  append_eq_iff c d a b

theorem packRI_and (c d : BitVec 4) (x y : RegIdx) (m n : Byte) :
    packRI c x m &&& packRI d y n = packRI (c &&& d) (x &&& y) (m &&& n) := by
  rw [packRI_eq, packRI_eq, packAddr_and]
  exact congrArg (packAddr (c &&& d)) (BitVec.and_append (x₁ := x) (x₂ := y) (y₁ := m) (y₂ := n))

theorem packRI_inj (c d : BitVec 4) (x y : RegIdx) (m n : Byte) :
    packRI c x m = packRI d y n ↔ c = d ∧ x = y ∧ m = n :=
  (packAddr_inj c d (x ++ m) (y ++ n)).trans (and_congr_right fun _ => append_eq_iff x y m n)

theorem packRR_and (c d : BitVec 4) (x x' y y' : RegIdx) (m n : BitVec 4) :
    packRR c x y m &&& packRR d x' y' n = packRR (c &&& d) (x &&& x') (y &&& y') (m &&& n) := by
  rw [packRR_eq, packRR_eq, packRI_and]
  exact congrArg (packRI (c &&& d) (x &&& x')) (BitVec.and_append (x₁ := y) (x₂ := y') (y₁ := m) (y₂ := n))

theorem packRR_inj (c d : BitVec 4) (x x' y y' : RegIdx) (m n : BitVec 4) :
    packRR c x y m = packRR d x' y' n ↔ c = d ∧ x = x' ∧ y = y' ∧ m = n :=
  (packRI_inj c d x x' (y ++ m) (y' ++ n)).trans
    (and_congr_right fun _ => and_congr_right fun _ => append_eq_iff y y' m n)

/-- A row with mask 0xF000 reads the category alone. -/
theorem selects_cat (m : String) (p w : Word) :
    OpcodeRow.selects ⟨m, 0xF000#16, p⟩ w = (opCat w == opCat p && opNNN p == 0) := by
  have hm : (0xF000#16 : Word) = packAddr 0xF 0x000 := by decide
  have h : w &&& 0xF000#16 = p ↔ opCat w = opCat p ∧ opNNN p = 0 := by
    conv_lhs => rw [← pack_opAddr w, ← pack_opAddr p, hm, packAddr_and, packAddr_inj]
    have h1 : opCat w &&& 0xF#4 = opCat w := BitVec.and_allOnes
    simp [h1, eq_comm]
  rw [OpcodeRow.selects, Bool.eq_iff_iff, beq_iff_eq, h]
  simp

/-- A row with mask 0xF0FF reads the category and `NN`. -/
theorem selects_catNN (m : String) (p w : Word) :
    OpcodeRow.selects ⟨m, 0xF0FF#16, p⟩ w = (opCat w == opCat p && opX p == 0 && opNN w == opNN p) := by
  have hm : (0xF0FF#16 : Word) = packRI 0xF 0x0 0xFF := by decide
  have h : w &&& 0xF0FF#16 = p ↔ opCat w = opCat p ∧ opX p = 0 ∧ opNN w = opNN p := by
    conv_lhs => rw [← pack_opRI w, ← pack_opRI p, hm, packRI_and, packRI_inj]
    have h1 : opCat w &&& 0xF#4 = opCat w := BitVec.and_allOnes
    have h2 : opNN w &&& 0xFF#8 = opNN w := BitVec.and_allOnes
    simp [h1, h2, eq_comm]
  rw [OpcodeRow.selects, Bool.eq_iff_iff, beq_iff_eq, h]
  simp [and_assoc]

/-- A row with mask 0xF00F reads the category and `N`. -/
theorem selects_catN (m : String) (p w : Word) :
    OpcodeRow.selects ⟨m, 0xF00F#16, p⟩ w =
      (opCat w == opCat p && opX p == 0 && opY p == 0 && opN w == opN p) := by
  have hm : (0xF00F#16 : Word) = packRR 0xF 0x0 0x0 0xF := by decide
  have h : w &&& 0xF00F#16 = p ↔ opCat w = opCat p ∧ opX p = 0 ∧ opY p = 0 ∧ opN w = opN p := by
    conv_lhs => rw [← pack_opRR w, ← pack_opRR p, hm, packRR_and, packRR_inj]
    have h1 : opCat w &&& 0xF#4 = opCat w := BitVec.and_allOnes
    have h2 : opN w &&& 0xF#4 = opN w := BitVec.and_allOnes
    simp [h1, h2, eq_comm]
  rw [OpcodeRow.selects, Bool.eq_iff_iff, beq_iff_eq, h]
  simp [and_assoc]

end Sys2Proof
end

