-- ==== Sys2Proof/Laws/PerInstr.lean ====
section
/-! SUPPORT. Facts about every instruction as syntax, one lemma per constructor (LAWS.json). -/

set_option linter.unusedSimpArgs false

namespace Sys2Proof.Laws.TableRow

/-- The opcode of a well-formed instruction is selected first by the row of spec/opcode_table.json that bears its
mnemonic (spec/30_encoding.md R66, R71). -/
def Statement (i : Instr) : Prop := i.wf = true → (firstRow (encode i)).map (·.mnemonic) = some i.mnemonic

theorem cls (x : RegIdx) : Statement (.cls x) := by
  intro _
  simp [firstRow, opcodeTable, instructionRows, rowsLow, rowsAlu, rowsHigh, noopRows, encode, Instr.mnemonic, selects_cat,
    selects_catN, selects_catNN, opCat_ofNat, opX_ofNat, opY_ofNat, opN_ofNat, opNN_ofNat, opNNN_ofNat]

theorem ret (x : RegIdx) : Statement (.ret x) := by
  intro _
  simp [firstRow, opcodeTable, instructionRows, rowsLow, rowsAlu, rowsHigh, noopRows, encode, Instr.mnemonic, selects_cat,
    selects_catN, selects_catNN, opCat_ofNat, opX_ofNat, opY_ofNat, opN_ofNat, opNN_ofNat, opNNN_ofNat]

theorem jp (nnn : Addr12) : Statement (.jp nnn) := by
  intro _
  simp [firstRow, opcodeTable, instructionRows, rowsLow, rowsAlu, rowsHigh, noopRows, encode, Instr.mnemonic, selects_cat,
    selects_catN, selects_catNN, opCat_ofNat, opX_ofNat, opY_ofNat, opN_ofNat, opNN_ofNat, opNNN_ofNat]

theorem call (nnn : Addr12) : Statement (.call nnn) := by
  intro _
  simp [firstRow, opcodeTable, instructionRows, rowsLow, rowsAlu, rowsHigh, noopRows, encode, Instr.mnemonic, selects_cat,
    selects_catN, selects_catNN, opCat_ofNat, opX_ofNat, opY_ofNat, opN_ofNat, opNN_ofNat, opNNN_ofNat]

theorem seImm (x : RegIdx) (nn : Byte) : Statement (.seImm x nn) := by
  intro _
  simp [firstRow, opcodeTable, instructionRows, rowsLow, rowsAlu, rowsHigh, noopRows, encode, Instr.mnemonic, selects_cat,
    selects_catN, selects_catNN, opCat_ofNat, opX_ofNat, opY_ofNat, opN_ofNat, opNN_ofNat, opNNN_ofNat]

theorem sneImm (x : RegIdx) (nn : Byte) : Statement (.sneImm x nn) := by
  intro _
  simp [firstRow, opcodeTable, instructionRows, rowsLow, rowsAlu, rowsHigh, noopRows, encode, Instr.mnemonic, selects_cat,
    selects_catN, selects_catNN, opCat_ofNat, opX_ofNat, opY_ofNat, opN_ofNat, opNN_ofNat, opNNN_ofNat]

theorem seReg (x y : RegIdx) (n : BitVec 4) : Statement (.seReg x y n) := by
  intro _
  simp [firstRow, opcodeTable, instructionRows, rowsLow, rowsAlu, rowsHigh, noopRows, encode, Instr.mnemonic, selects_cat,
    selects_catN, selects_catNN, opCat_ofNat, opX_ofNat, opY_ofNat, opN_ofNat, opNN_ofNat, opNNN_ofNat]

theorem ldImm (x : RegIdx) (nn : Byte) : Statement (.ldImm x nn) := by
  intro _
  simp [firstRow, opcodeTable, instructionRows, rowsLow, rowsAlu, rowsHigh, noopRows, encode, Instr.mnemonic, selects_cat,
    selects_catN, selects_catNN, opCat_ofNat, opX_ofNat, opY_ofNat, opN_ofNat, opNN_ofNat, opNNN_ofNat]

theorem addImm (x : RegIdx) (nn : Byte) : Statement (.addImm x nn) := by
  intro _
  simp [firstRow, opcodeTable, instructionRows, rowsLow, rowsAlu, rowsHigh, noopRows, encode, Instr.mnemonic, selects_cat,
    selects_catN, selects_catNN, opCat_ofNat, opX_ofNat, opY_ofNat, opN_ofNat, opNN_ofNat, opNNN_ofNat]

theorem mov (x y : RegIdx) : Statement (.mov x y) := by
  intro _
  simp [firstRow, opcodeTable, instructionRows, rowsLow, rowsAlu, rowsHigh, noopRows, encode, Instr.mnemonic, selects_cat,
    selects_catN, selects_catNN, opCat_ofNat, opX_ofNat, opY_ofNat, opN_ofNat, opNN_ofNat, opNNN_ofNat]

theorem or (x y : RegIdx) : Statement (.or x y) := by
  intro _
  simp [firstRow, opcodeTable, instructionRows, rowsLow, rowsAlu, rowsHigh, noopRows, encode, Instr.mnemonic, selects_cat,
    selects_catN, selects_catNN, opCat_ofNat, opX_ofNat, opY_ofNat, opN_ofNat, opNN_ofNat, opNNN_ofNat]

theorem and (x y : RegIdx) : Statement (.and x y) := by
  intro _
  simp [firstRow, opcodeTable, instructionRows, rowsLow, rowsAlu, rowsHigh, noopRows, encode, Instr.mnemonic, selects_cat,
    selects_catN, selects_catNN, opCat_ofNat, opX_ofNat, opY_ofNat, opN_ofNat, opNN_ofNat, opNNN_ofNat]

theorem xor (x y : RegIdx) : Statement (.xor x y) := by
  intro _
  simp [firstRow, opcodeTable, instructionRows, rowsLow, rowsAlu, rowsHigh, noopRows, encode, Instr.mnemonic, selects_cat,
    selects_catN, selects_catNN, opCat_ofNat, opX_ofNat, opY_ofNat, opN_ofNat, opNN_ofNat, opNNN_ofNat]

theorem add (x y : RegIdx) : Statement (.add x y) := by
  intro _
  simp [firstRow, opcodeTable, instructionRows, rowsLow, rowsAlu, rowsHigh, noopRows, encode, Instr.mnemonic, selects_cat,
    selects_catN, selects_catNN, opCat_ofNat, opX_ofNat, opY_ofNat, opN_ofNat, opNN_ofNat, opNNN_ofNat]

theorem sub (x y : RegIdx) : Statement (.sub x y) := by
  intro _
  simp [firstRow, opcodeTable, instructionRows, rowsLow, rowsAlu, rowsHigh, noopRows, encode, Instr.mnemonic, selects_cat,
    selects_catN, selects_catNN, opCat_ofNat, opX_ofNat, opY_ofNat, opN_ofNat, opNN_ofNat, opNNN_ofNat]

theorem shr (x y : RegIdx) : Statement (.shr x y) := by
  intro _
  simp [firstRow, opcodeTable, instructionRows, rowsLow, rowsAlu, rowsHigh, noopRows, encode, Instr.mnemonic, selects_cat,
    selects_catN, selects_catNN, opCat_ofNat, opX_ofNat, opY_ofNat, opN_ofNat, opNN_ofNat, opNNN_ofNat]

theorem subn (x y : RegIdx) : Statement (.subn x y) := by
  intro _
  simp [firstRow, opcodeTable, instructionRows, rowsLow, rowsAlu, rowsHigh, noopRows, encode, Instr.mnemonic, selects_cat,
    selects_catN, selects_catNN, opCat_ofNat, opX_ofNat, opY_ofNat, opN_ofNat, opNN_ofNat, opNNN_ofNat]

theorem shl (x y : RegIdx) : Statement (.shl x y) := by
  intro _
  simp [firstRow, opcodeTable, instructionRows, rowsLow, rowsAlu, rowsHigh, noopRows, encode, Instr.mnemonic, selects_cat,
    selects_catN, selects_catNN, opCat_ofNat, opX_ofNat, opY_ofNat, opN_ofNat, opNN_ofNat, opNNN_ofNat]

theorem sneReg (x y : RegIdx) (n : BitVec 4) : Statement (.sneReg x y n) := by
  intro _
  simp [firstRow, opcodeTable, instructionRows, rowsLow, rowsAlu, rowsHigh, noopRows, encode, Instr.mnemonic, selects_cat,
    selects_catN, selects_catNN, opCat_ofNat, opX_ofNat, opY_ofNat, opN_ofNat, opNN_ofNat, opNNN_ofNat]

theorem ldi (nnn : Addr12) : Statement (.ldi nnn) := by
  intro _
  simp [firstRow, opcodeTable, instructionRows, rowsLow, rowsAlu, rowsHigh, noopRows, encode, Instr.mnemonic, selects_cat,
    selects_catN, selects_catNN, opCat_ofNat, opX_ofNat, opY_ofNat, opN_ofNat, opNN_ofNat, opNNN_ofNat]

theorem jpv (nnn : Addr12) : Statement (.jpv nnn) := by
  intro _
  simp [firstRow, opcodeTable, instructionRows, rowsLow, rowsAlu, rowsHigh, noopRows, encode, Instr.mnemonic, selects_cat,
    selects_catN, selects_catNN, opCat_ofNat, opX_ofNat, opY_ofNat, opN_ofNat, opNN_ofNat, opNNN_ofNat]

theorem rnd (x : RegIdx) (nn : Byte) : Statement (.rnd x nn) := by
  intro _
  simp [firstRow, opcodeTable, instructionRows, rowsLow, rowsAlu, rowsHigh, noopRows, encode, Instr.mnemonic, selects_cat,
    selects_catN, selects_catNN, opCat_ofNat, opX_ofNat, opY_ofNat, opN_ofNat, opNN_ofNat, opNNN_ofNat]

theorem drw (x y : RegIdx) (n : BitVec 4) : Statement (.drw x y n) := by
  intro _
  simp [firstRow, opcodeTable, instructionRows, rowsLow, rowsAlu, rowsHigh, noopRows, encode, Instr.mnemonic, selects_cat,
    selects_catN, selects_catNN, opCat_ofNat, opX_ofNat, opY_ofNat, opN_ofNat, opNN_ofNat, opNNN_ofNat]

theorem skp (x : RegIdx) : Statement (.skp x) := by
  intro _
  simp [firstRow, opcodeTable, instructionRows, rowsLow, rowsAlu, rowsHigh, noopRows, encode, Instr.mnemonic, selects_cat,
    selects_catN, selects_catNN, opCat_ofNat, opX_ofNat, opY_ofNat, opN_ofNat, opNN_ofNat, opNNN_ofNat]

theorem sknp (x : RegIdx) : Statement (.sknp x) := by
  intro _
  simp [firstRow, opcodeTable, instructionRows, rowsLow, rowsAlu, rowsHigh, noopRows, encode, Instr.mnemonic, selects_cat,
    selects_catN, selects_catNN, opCat_ofNat, opX_ofNat, opY_ofNat, opN_ofNat, opNN_ofNat, opNNN_ofNat]

theorem getdt (x : RegIdx) : Statement (.getdt x) := by
  intro _
  simp [firstRow, opcodeTable, instructionRows, rowsLow, rowsAlu, rowsHigh, noopRows, encode, Instr.mnemonic, selects_cat,
    selects_catN, selects_catNN, opCat_ofNat, opX_ofNat, opY_ofNat, opN_ofNat, opNN_ofNat, opNNN_ofNat]

theorem waitk (x : RegIdx) : Statement (.waitk x) := by
  intro _
  simp [firstRow, opcodeTable, instructionRows, rowsLow, rowsAlu, rowsHigh, noopRows, encode, Instr.mnemonic, selects_cat,
    selects_catN, selects_catNN, opCat_ofNat, opX_ofNat, opY_ofNat, opN_ofNat, opNN_ofNat, opNNN_ofNat]

theorem setdt (x : RegIdx) : Statement (.setdt x) := by
  intro _
  simp [firstRow, opcodeTable, instructionRows, rowsLow, rowsAlu, rowsHigh, noopRows, encode, Instr.mnemonic, selects_cat,
    selects_catN, selects_catNN, opCat_ofNat, opX_ofNat, opY_ofNat, opN_ofNat, opNN_ofNat, opNNN_ofNat]

theorem setst (x : RegIdx) : Statement (.setst x) := by
  intro _
  simp [firstRow, opcodeTable, instructionRows, rowsLow, rowsAlu, rowsHigh, noopRows, encode, Instr.mnemonic, selects_cat,
    selects_catN, selects_catNN, opCat_ofNat, opX_ofNat, opY_ofNat, opN_ofNat, opNN_ofNat, opNNN_ofNat]

theorem addi (x : RegIdx) : Statement (.addi x) := by
  intro _
  simp [firstRow, opcodeTable, instructionRows, rowsLow, rowsAlu, rowsHigh, noopRows, encode, Instr.mnemonic, selects_cat,
    selects_catN, selects_catNN, opCat_ofNat, opX_ofNat, opY_ofNat, opN_ofNat, opNN_ofNat, opNNN_ofNat]

theorem font (x : RegIdx) : Statement (.font x) := by
  intro _
  simp [firstRow, opcodeTable, instructionRows, rowsLow, rowsAlu, rowsHigh, noopRows, encode, Instr.mnemonic, selects_cat,
    selects_catN, selects_catNN, opCat_ofNat, opX_ofNat, opY_ofNat, opN_ofNat, opNN_ofNat, opNNN_ofNat]

theorem bcd (x : RegIdx) : Statement (.bcd x) := by
  intro _
  simp [firstRow, opcodeTable, instructionRows, rowsLow, rowsAlu, rowsHigh, noopRows, encode, Instr.mnemonic, selects_cat,
    selects_catN, selects_catNN, opCat_ofNat, opX_ofNat, opY_ofNat, opN_ofNat, opNN_ofNat, opNNN_ofNat]

theorem stm (x : RegIdx) : Statement (.stm x) := by
  intro _
  simp [firstRow, opcodeTable, instructionRows, rowsLow, rowsAlu, rowsHigh, noopRows, encode, Instr.mnemonic, selects_cat,
    selects_catN, selects_catNN, opCat_ofNat, opX_ofNat, opY_ofNat, opN_ofNat, opNN_ofNat, opNNN_ofNat]

theorem ldm (x : RegIdx) : Statement (.ldm x) := by
  intro _
  simp [firstRow, opcodeTable, instructionRows, rowsLow, rowsAlu, rowsHigh, noopRows, encode, Instr.mnemonic, selects_cat,
    selects_catN, selects_catNN, opCat_ofNat, opX_ofNat, opY_ofNat, opN_ofNat, opNN_ofNat, opNNN_ofNat]

theorem nop0 (nnn : Addr12) : Statement (.nop0 nnn) := by
  intro h
  simp [Instr.wf, unlisted0] at h
  simp [firstRow, opcodeTable, instructionRows, rowsLow, rowsAlu, rowsHigh, noopRows, encode, Instr.mnemonic, selects_cat,
    selects_catN, selects_catNN, opCat_ofNat, opX_ofNat, opY_ofNat, opN_ofNat, opNN_ofNat, opNNN_ofNat, h]

theorem nop8 (x y : RegIdx) (n : BitVec 4) : Statement (.nop8 x y n) := by
  intro h
  have h := ne_of_unlisted8 n h
  simp [firstRow, opcodeTable, instructionRows, rowsLow, rowsAlu, rowsHigh, noopRows, encode, Instr.mnemonic, selects_cat,
    selects_catN, selects_catNN, opCat_ofNat, opX_ofNat, opY_ofNat, opN_ofNat, opNN_ofNat, opNNN_ofNat, h]

theorem nope (x : RegIdx) (nn : Byte) : Statement (.nope x nn) := by
  intro h
  simp [Instr.wf, unlistedE] at h
  simp [firstRow, opcodeTable, instructionRows, rowsLow, rowsAlu, rowsHigh, noopRows, encode, Instr.mnemonic, selects_cat,
    selects_catN, selects_catNN, opCat_ofNat, opX_ofNat, opY_ofNat, opN_ofNat, opNN_ofNat, opNNN_ofNat, h]

theorem nopf (x : RegIdx) (nn : Byte) : Statement (.nopf x nn) := by
  intro h
  simp [Instr.wf, unlistedF] at h
  simp [firstRow, opcodeTable, instructionRows, rowsLow, rowsAlu, rowsHigh, noopRows, encode, Instr.mnemonic, selects_cat,
    selects_catN, selects_catNN, opCat_ofNat, opX_ofNat, opY_ofNat, opN_ofNat, opNN_ofNat, opNNN_ofNat, h]

end Sys2Proof.Laws.TableRow
end

