-- ==== Sys2Proof/Laws/Widths.lean ====
section
/-! SUPPORT. What the widths of R5 come to in numbers, so that no later proof unfolds `Config.iWidth` or
`Config.pcWidth`: the 16-bit operands as natural numbers (spec/30_encoding.md R64, spec/42_index_memory.md R110 to R112) and
the two answers of ADDI. -/

namespace Sys2Proof.Machine

@[simp] theorem two_pow_iWidth : 2 ^ Config.iWidth = 65536 := rfl

@[simp] theorem two_pow_pcWidth : 2 ^ Config.pcWidth = 65536 := rfl

theorem PcWord.toNat_lt (w : PcWord) : w.toNat < 65536 := w.isLt

theorem IndexWord.toNat_lt (w : IndexWord) : w.toNat < 65536 := w.isLt

/-- The base of a data access is at most 0xFFFF (R14, R113). -/
theorem State.dataBase_lt (s : State) : s.dataBase < 65536 := s.I.isLt

theorem PcWord.toNat_add (a b : PcWord) : (a + b).toNat = (a.toNat + b.toNat) % 65536 := BitVec.toNat_add a b

/-- The fetch advance and a taken skip, where the sum does not wrap (R16, R17). -/
theorem PcWord.toNat_add_two {w : PcWord} (h : w.toNat < 65534) : (w + 2).toNat = w.toNat + 2 := by
  have two : (2 : PcWord).toNat = 2 := rfl
  rw [PcWord.toNat_add, two, Nat.mod_eq_of_lt (by omega)]

/-- Re-execution undoes the fetch advance (R16, R133). -/
@[simp] theorem PcWord.add_two_sub_two (w : PcWord) : w + 2 - 2 = w := BitVec.add_sub_cancel w 2

@[simp] theorem zextPc_toNat (nnn : Addr12) : (zextPc nnn).toNat = nnn.toNat :=
  BitVec.toNat_setWidth_of_le (by decide)

@[simp] theorem zextIndex_toNat (nnn : Addr12) : (zextIndex nnn).toNat = nnn.toNat :=
  BitVec.toNat_setWidth_of_le (by decide)

/-- The target of JPV is the sum itself (R83: no wrap, no mask). -/
theorem jpv_target_toNat (nnn : Addr12) (b : Byte) :
    (zextPc nnn + b.setWidth Config.pcWidth).toNat = nnn.toNat + b.toNat := by
  have hb : (b.setWidth Config.pcWidth).toNat = b.toNat := BitVec.toNat_setWidth_of_le (by decide)
  have := nnn.isLt
  have := b.isLt
  rw [PcWord.toNat_add, zextPc_toNat, hb, Nat.mod_eq_of_lt (by omega)]

/-- The glyph's address as R112 writes it. -/
@[simp] theorem glyphAddress_toNat (v : Byte) : (glyphAddress v).toNat = 0x050 + 5 * (v.toNat % 16) := by
  have := Nat.mod_lt v.toNat (show 0 < 16 by decide)
  exact Nat.mod_eq_of_lt (show 0x050 + 5 * (v.toNat % 16) < 65536 by omega)

/-- ADDI where the sum fits 16 bits (R111). -/
theorem execAddi_ok {x : RegIdx} {s : State} (h : s.I.toNat + (s.reg x).toNat ≤ 0xFFFF) :
    execAddi x s = .next ((s.setI (BitVec.ofNat Config.iWidth (s.I.toNat + (s.reg x).toNat))).setReg vF
      (indexFlag (s.I.toNat + (s.reg x).toNat))) := by
  have h' : ¬2 ^ Config.iWidth ≤ s.I.toNat + (s.reg x).toNat := by rw [two_pow_iWidth]; omega
  unfold execAddi
  rw [if_neg h']

/-- The stored index is the sum itself, where it fits (R111). -/
theorem index_ofNat_toNat {n : Nat} (h : n ≤ 0xFFFF) : (BitVec.ofNat Config.iWidth n).toNat = n :=
  Nat.mod_eq_of_lt (show n < 65536 by omega)

/-- ADDI where it does not (R111). -/
theorem execAddi_fault {x : RegIdx} {s : State} (h : 0xFFFF < s.I.toNat + (s.reg x).toNat) :
    execAddi x s = raiseIn (.addi x) (.indexOverflow (s.I.toNat + (s.reg x).toNat)) s := by
  have h' : 2 ^ Config.iWidth ≤ s.I.toNat + (s.reg x).toNat := by rw [two_pow_iWidth]; omega
  unfold execAddi
  rw [if_pos h']

end Sys2Proof.Machine
end

