-- ==== Sys2Proof/Tests/Slice0.lean ====
section
/-! SUPPORT. Checks of the model. Expected values come from spec/: the encodings of 30_encoding.md R66 and R69, and the
vectors of 95_test_vectors.md, whose names (CT1, AL3, …) stand in the docstrings. Then, for every statement of
Certificates/Slice0/Obligations.lean that has hypotheses, a state and operands that meet them. -/

namespace Sys2Proof.Tests

open Sys2Proof.Machine Sys2Proof.Claims

/-! ## The states the tests start from -/

/-- A cycle's inputs with no key, a zero random byte and no tick. -/
def quiet : CycleInputs := { keys := 0, rnd := 0, ticksDT := 0, ticksST := 0 }

/-- The reset state with quiet inputs. -/
def base : State := { State.reset with script := [quiet, quiet] }

/-- The reset state with the given keys and random byte in the coming cycle. -/
def withInputs (keys : BitVec 16) (rnd : Byte) : State :=
  { State.reset with script := [{ quiet with keys := keys, rnd := rnd }] }

/-- `s` with some general registers set. -/
def withV (s : State) : List (RegIdx × Byte) → State
  | [] => s
  | (x, b) :: rest => withV (s.setReg x b) rest

/-- `s` with bytes in memory from an address up. -/
def withMem (s : State) (a : Nat) (bytes : List Byte) : State := s.setMem (Memory.writeBytes s.mem a bytes)

/-- `s` built with the modern jump and the legacy shift, the two settings that are not the default. -/
def otherBuild (s : State) : State := { s with build := { shiftMode := .legacy, jumpMode := .modern } }

/-- One step of `s` with the opcode `w` at `pc`, and a check of the state it gives. -/
def after (w : Word) (s : State) (p : State → Bool) : Bool :=
  match step (s.withFetchWord 16 w.toNat) with
  | .next t => p t
  | .fault _ => false
  | .refused _ => false

/-- The pixels that are on, of a list of (column, row) pairs. -/
def lit (t : State) (l : List (Nat × Nat)) : Bool := l.all (fun p => t.fb.pixel p.1 p.2)

/-- How many pixels are on in the rows `y < n`. -/
def litCount (t : State) (n : Nat) : Nat :=
  ((List.range n).map (fun y => ((List.range 64).filter (fun x => t.fb.pixel x y)).length)).sum

/-! ## Well-formedness: one ill-formed term for each check (R69) -/

theorem test_wf_refuses_nop0 : (Instr.nop0 0x0E0).wf = false ∧ (Instr.nop0 0xAEE).wf = false := by decide

theorem test_wf_refuses_nop8 : (Instr.nop8 1 2 0x7).wf = false ∧ (Instr.nop8 1 2 0xE).wf = false := by decide

theorem test_wf_refuses_nope : (Instr.nope 1 0x9E).wf = false ∧ (Instr.nope 1 0xA1).wf = false := by decide

theorem test_wf_refuses_nopf : (Instr.nopf 1 0x07).wf = false ∧ (Instr.nopf 1 0x65).wf = false := by decide

theorem test_canonical_refuses : (Instr.cls 7).canonical = false ∧ (Instr.seReg 1 2 7).canonical = false := by decide

/-! ## Decoding: a word for every constructor, from the patterns of R66 and R69 -/

theorem test_decode_sys : decodeWord 0x00E0 = .cls 0 ∧ decodeWord 0x00EE = .ret 0 := by decide

theorem test_decode_addr : decodeWord 0x1234 = .jp 0x234 ∧ decodeWord 0x220A = .call 0x20A ∧
    decodeWord 0xA300 = .ldi 0x300 ∧ decodeWord 0xB234 = .jpv 0x234 := by decide

theorem test_decode_ri : decodeWord 0x332A = .seImm 3 0x2A ∧ decodeWord 0x432A = .sneImm 3 0x2A ∧
    decodeWord 0x6A2F = .ldImm 0xA 0x2F ∧ decodeWord 0x7103 = .addImm 1 0x03 ∧ decodeWord 0xC30F = .rnd 3 0x0F := by
  decide

theorem test_decode_rr : decodeWord 0x5120 = .seReg 1 2 0 ∧ decodeWord 0x912F = .sneReg 1 2 0xF := by decide

theorem test_decode_alu_low : decodeWord 0x8120 = .mov 1 2 ∧ decodeWord 0x8121 = .or 1 2 ∧ decodeWord 0x8122 = .and 1 2 ∧
    decodeWord 0x8123 = .xor 1 2 ∧ decodeWord 0x8124 = .add 1 2 := by decide

theorem test_decode_alu_high : decodeWord 0x8125 = .sub 1 2 ∧ decodeWord 0x8126 = .shr 1 2 ∧
    decodeWord 0x8127 = .subn 1 2 ∧ decodeWord 0x812E = .shl 1 2 := by decide

theorem test_decode_draw : decodeWord 0xD123 = .drw 1 2 3 := by decide

theorem test_decode_keys : decodeWord 0xE49E = .skp 4 ∧ decodeWord 0xE4A1 = .sknp 4 ∧ decodeWord 0xF30A = .waitk 3 := by
  decide

theorem test_decode_timers : decodeWord 0xF507 = .getdt 5 ∧ decodeWord 0xF515 = .setdt 5 ∧ decodeWord 0xF518 = .setst 5 := by
  decide

theorem test_decode_index : decodeWord 0xF11E = .addi 1 ∧ decodeWord 0xF229 = .font 2 ∧ decodeWord 0xF033 = .bcd 0 ∧
    decodeWord 0xF255 = .stm 2 ∧ decodeWord 0xF265 = .ldm 2 := by decide

theorem test_decode_noops : decodeWord 0x0FED = .nop0 0xFED ∧ decodeWord 0x8128 = .nop8 1 2 8 ∧
    decodeWord 0xE19F = .nope 1 0x9F ∧ decodeWord 0xF1FF = .nopf 1 0xFF := by decide

/-- R44, R61: high byte first, two bytes, the rest left over; one byte is no instruction. -/
theorem test_decode_bytes : decodeBytes [0x12, 0x34, 0x56] = .ok (.jp 0x234, [0x56]) ∧
    decodeBytes [0x12] = .error (.truncated 1) := by decide

theorem test_decode_table_word : decodeTableWord 16 0xD123 = some (.drw 1 2 3) ∧ decodeTableWord 32 0xD123 = none := by
  decide

theorem test_encode : encode (.drw 1 2 3) = 0xD123 ∧ encode (.addi 1) = 0xF11E ∧ encode (.call 0x20A) = 0x220A := by decide

theorem test_listing : (Instr.seImm 3 0x2A).listing = "SE_IMM V3, 2A" ∧ (Instr.nop0 0).listing = "DW 0000" := by decide

/-! ## Control transfer -/

/-- CT1. -/
theorem test_jp : after 0x1234 base (fun t => t.pc == 0x0234) = true := by decide

/-- CT4, CT5. -/
theorem test_call : after 0x220A (base.setPc 0x204) (fun t => t.pc == 0x020A && t.stack == [0x0206]) = true ∧
    after 0x2345 (base.setPc 0xFFE) (fun t => t.pc == 0x0345 && t.stack == [0x1000]) = true := by decide

/-- CT6. -/
theorem test_call_overflow : after 0x2300 (base.setStack (List.replicate 16 0x0202)) (fun t =>
    t.fault == some { cause := .stackOverflow 0x0202, pc := 0x0200, opcode := some 0x2300 } &&
    t.stack == List.replicate 16 0x0202 && t.pc == 0x0202) = true := by decide

/-- CT8. -/
theorem test_ret : after 0x0AEE ((base.setPc 0x20C).setStack [0x0300, 0x0206]) (fun t =>
    t.pc == 0x0300 && t.stack == [0x0206]) = true := by decide

/-- CT9. -/
theorem test_ret_underflow : after 0x00EE base (fun t =>
    t.fault == some { cause := .stackUnderflow, pc := 0x0200, opcode := some 0x00EE } && t.pc == 0x0202) = true := by decide

/-- CT10, CT13. -/
theorem test_jpv_legacy : after 0xB300 (withV base [(0, 0x04), (3, 0x10)]) (fun t => t.pc == 0x0304) = true ∧
    after 0xBFFF (withV base [(0, 0xFF)]) (fun t => t.pc == 0x10FE) = true := by decide

/-- CT11, CT12. -/
theorem test_jpv_modern : after 0xB300 (withV (otherBuild base) [(0, 0x04), (3, 0x10)]) (fun t => t.pc == 0x0310) = true ∧
    after 0xB234 (withV (otherBuild base) [(2, 0x10)]) (fun t => t.pc == 0x0244) = true := by decide

/-- CT14, CT15. -/
theorem test_seImm : after 0x332A (withV base [(3, 0x2A)]) (fun t => t.pc == 0x0204) = true ∧
    after 0x332A (withV base [(3, 0x2B)]) (fun t => t.pc == 0x0202) = true := by decide

/-- CT16, CT17. -/
theorem test_sneImm : after 0x432A (withV base [(3, 0x2A)]) (fun t => t.pc == 0x0202) = true ∧
    after 0x432A base (fun t => t.pc == 0x0204) = true := by decide

/-- CT19, CT20. -/
theorem test_seReg : after 0x5120 (withV base [(1, 7), (2, 8)]) (fun t => t.pc == 0x0202) = true ∧
    after 0x5127 (withV base [(1, 7), (2, 7)]) (fun t => t.pc == 0x0204) = true := by decide

/-- CT23, CT25. -/
theorem test_sneReg : after 0x9120 (withV base [(1, 7), (2, 7)]) (fun t => t.pc == 0x0202) = true ∧
    after 0x912F (withV base [(1, 1), (2, 2)]) (fun t => t.pc == 0x0204) = true := by decide

/-! ## Loads, arithmetic, logic, shifts, random -/

/-- AL1. -/
theorem test_ldImm : after 0x6A2F base (fun t => t.reg 0xA == 0x2F && t.pc == 0x0202) = true := by decide

/-- AL3. -/
theorem test_addImm : after 0x7103 (withV base [(1, 0xFE), (15, 7)]) (fun t => t.reg 1 == 0x01 && t.reg 15 == 7) = true := by
  decide

/-- AL6. -/
theorem test_mov : after 0x8120 (withV base [(2, 0x55)]) (fun t => t.reg 1 == 0x55 && t.reg 2 == 0x55) = true := by decide

/-- AL7. -/
theorem test_or : after 0x8121 (withV base [(1, 0xF0), (2, 0x0C), (15, 9)]) (fun t =>
    t.reg 1 == 0xFC && t.reg 15 == 9) = true := by decide

/-- AL8. -/
theorem test_and : after 0x8122 (withV base [(1, 0xF0), (2, 0x3C), (15, 9)]) (fun t =>
    t.reg 1 == 0x30 && t.reg 15 == 9) = true := by decide

/-- AL9. -/
theorem test_xor : after 0x8123 (withV base [(1, 0xF0), (2, 0x3C), (15, 9)]) (fun t =>
    t.reg 1 == 0xCC && t.reg 15 == 9) = true := by decide

/-- AL13, AL14: the threshold is 255. -/
theorem test_add_threshold : after 0x8124 (withV base [(1, 0xFF)]) (fun t => t.reg 1 == 0xFF && t.reg 15 == 1) = true ∧
    after 0x8124 (withV base [(1, 0xFE), (15, 1)]) (fun t => t.reg 1 == 0xFE && t.reg 15 == 0) = true := by decide

/-- AL20: with X = 15 the flag stands. -/
theorem test_add_vF : after 0x8F24 (withV base [(15, 0xF0), (2, 0x20)]) (fun t => t.reg 15 == 1) = true := by decide

/-- AL22, AL29. -/
theorem test_sub : after 0x8125 (withV base [(1, 0x0A), (2, 0x0C)]) (fun t => t.reg 1 == 0xFE && t.reg 15 == 0) = true ∧
    after 0x81F5 (withV base [(15, 9)]) (fun t => t.reg 1 == 0xF7 && t.reg 15 == 0) = true := by decide

/-- AL26: with X = 15 the difference stands. -/
theorem test_sub_vF : after 0x8F25 (withV base [(15, 0x10), (2, 3)]) (fun t => t.reg 15 == 0x0D) = true := by decide

/-- AL30, AL34. -/
theorem test_subn : after 0x8127 (withV base [(1, 0x0A), (2, 0x0C)]) (fun t => t.reg 1 == 2 && t.reg 15 == 1) = true ∧
    after 0x81F7 (withV base [(1, 5), (15, 9)]) (fun t => t.reg 1 == 4 && t.reg 15 == 1) = true := by decide

/-- AL35, AL39. -/
theorem test_shr_modern : after 0x8126 (withV base [(1, 5), (2, 0xFF)]) (fun t =>
    t.reg 1 == 2 && t.reg 2 == 0xFF && t.reg 15 == 1) = true ∧
    after 0x8F26 (withV base [(15, 5)]) (fun t => t.reg 15 == 2) = true := by decide

/-- AL40, AL42. -/
theorem test_shr_legacy : after 0x8126 (withV (otherBuild base) [(1, 0xFF), (2, 4)]) (fun t =>
    t.reg 1 == 2 && t.reg 2 == 4 && t.reg 15 == 0) = true ∧
    after 0x81F6 (withV (otherBuild base) [(15, 5)]) (fun t => t.reg 1 == 2 && t.reg 15 == 1) = true := by decide

/-- AL45, AL48. -/
theorem test_shl_modern : after 0x812E (withV base [(1, 0x81)]) (fun t => t.reg 1 == 2 && t.reg 15 == 1) = true ∧
    after 0x8F2E (withV base [(15, 0x81)]) (fun t => t.reg 15 == 2) = true := by decide

/-- AL49. -/
theorem test_shl_legacy : after 0x812E (withV (otherBuild base) [(2, 0x81)]) (fun t =>
    t.reg 1 == 2 && t.reg 2 == 0x81 && t.reg 15 == 1) = true := by decide

/-- AL50. -/
theorem test_rnd : after 0xC30F (withInputs 0 0xB7) (fun t => t.reg 3 == 0x07) = true := by decide

/-! ## Index register and memory -/

/-- IM2. -/
theorem test_ldi : after 0xAFFF base (fun t => t.I == 0x0FFF) = true := by decide

/-- IM4, IM5. -/
theorem test_addi : after 0xF11E (withV (base.setI 0x0FFE) [(1, 2)]) (fun t => t.I == 0x1000 && t.reg 15 == 0) = true ∧
    after 0xF11E (withV (base.setI 0x0FFE) [(1, 3)]) (fun t => t.I == 0x1001 && t.reg 15 == 1) = true := by decide

/-- IM8. -/
theorem test_addi_overflow : after 0xF11E (withV (base.setI 0xFFFF) [(1, 1), (15, 7)]) (fun t =>
    t.fault == some { cause := .indexOverflow 0x10000, pc := 0x0200, opcode := some 0xF11E } &&
    t.I == 0xFFFF && t.reg 15 == 7 && t.pc == 0x0202) = true := by decide

/-- IM12, IM13. -/
theorem test_font : after 0xF229 (withV base [(2, 0x0A)]) (fun t => t.I == 0x0082) = true ∧
    after 0xF229 (withV base [(2, 0x1A)]) (fun t => t.I == 0x0082) = true := by decide

/-- IM14. -/
theorem test_bcd : after 0xF033 (withV (base.setI 0x300) [(0, 0xEA)]) (fun t =>
    Memory.read t.mem 0x300 == 2 && Memory.read t.mem 0x301 == 3 && Memory.read t.mem 0x302 == 4) = true := by decide

/-- IM18. -/
theorem test_bcd_fault : after 0xF033 (withV (base.setI 0xFFE) [(0, 0xEA)]) (fun t =>
    t.fault.map (·.cause) == some (.memoryBounds 0x1000 .write) && Memory.read t.mem 0xFFE == 0) = true := by decide

/-- IM20. -/
theorem test_stm : after 0xF255 (withV (base.setI 0x400) [(0, 0x11), (1, 0x22), (2, 0x33), (3, 0x44)]) (fun t =>
    Memory.read t.mem 0x400 == 0x11 && Memory.read t.mem 0x402 == 0x33 && Memory.read t.mem 0x403 == 0 &&
    t.I == 0x400) = true := by decide

/-- IM23. -/
theorem test_stm_fault : after 0xFF55 (withV (base.setI 0xFF1) [(0, 0xA0)]) (fun t =>
    t.fault.map (·.cause) == some (.memoryBounds 0x1000 .write) && Memory.read t.mem 0xFF1 == 0) = true := by decide

/-- IM26. -/
theorem test_ldm : after 0xF265 (withV (withMem (base.setI 0x300) 0x300 [2, 3, 4, 9]) [(3, 0x77)]) (fun t =>
    t.reg 0 == 2 && t.reg 1 == 3 && t.reg 2 == 4 && t.reg 3 == 0x77 && t.I == 0x300) = true := by decide

/-- IM28. -/
theorem test_ldm_fault : after 0xF165 (withV (withMem (base.setI 0xFFF) 0xFFF [0x5A]) [(0, 1), (1, 2)]) (fun t =>
    t.fault.map (·.cause) == some (.memoryBounds 0x1000 .read) && t.reg 0 == 1 && t.reg 1 == 2) = true := by decide

/-! ## Display -/

/-- DR24. -/
theorem test_cls : after 0x07E0 (base.setFb ((FrameBuffer.cleared.flip 0 0).flip 63 31)) (fun t =>
    !t.fb.pixel 0 0 && !t.fb.pixel 63 31 && t.events == [.clear]) = true := by decide

/-- DR1; the pairs are (column, row). -/
theorem test_drw : after 0xD012 (withV (withMem (base.setI 0x20A) 0x20A [0xC3, 0x81]) [(0, 0x42), (1, 1)]) (fun t =>
    lit t [(3, 1), (4, 1), (9, 1), (10, 1), (3, 2), (10, 2)] && litCount t 4 == 6 && t.events == [.present] &&
    t.reg 15 == 0) = true := by decide

/-- DR15: the first pixel in row-major order, and nothing drawn. -/
theorem test_drw_fault : after 0xD012 (withV (withMem (base.setI 0x300) 0x300 [0x0F, 0x80]) [(0, 0x3C), (1, 0x1F)]) (fun t =>
    t.fault.map (·.cause) == some (.displayBounds 64 31) && !t.fb.pixel 63 31 && t.events == []) = true := by decide

/-! ## Keys and timers -/

/-- KT1, KT4. -/
theorem test_skp : after 0xE49E (withV (withInputs 0x0020 0) [(4, 5)]) (fun t => t.pc == 0x0204) = true ∧
    after 0xE49E (withV (withInputs 0xFFFF 0) [(4, 0x15)]) (fun t => t.pc == 0x0202) = true := by decide

/-- KT5, KT6. -/
theorem test_sknp : after 0xE4A1 (withV base [(4, 5)]) (fun t => t.pc == 0x0204) = true ∧
    after 0xE4A1 (withV (withInputs 0x0020 0) [(4, 5)]) (fun t => t.pc == 0x0202) = true := by decide

/-- KT8, KT9. -/
theorem test_waitk : after 0xF30A (withV (base.setPc 0x210) [(3, 0x77)]) (fun t => t.pc == 0x0210 && t.reg 3 == 0x77) = true ∧
    after 0xF30A (withV ((withInputs 0x8001 0).setPc 0x210) [(3, 0x77)]) (fun t =>
      t.pc == 0x0212 && t.reg 3 == 0x77) = true := by decide

/-- KT11. -/
theorem test_getdt : after 0xF507 (base.setDT 0x3C) (fun t => t.reg 5 == 0x3C && t.DT == 0x3C) = true := by decide

/-- KT12. -/
theorem test_setdt : after 0xF515 (withV (base.setST 9) [(5, 0x3C)]) (fun t => t.DT == 0x3C && t.ST == 9) = true := by decide

/-- KT13. -/
theorem test_setst : after 0xF518 (withV (base.setDT 9) [(5, 0x5A)]) (fun t =>
    t.ST == 0x5A && t.DT == 9 && t.events == []) = true := by decide

/-- KT18, KT19 and R165. -/
theorem test_ticks : (tickST (base.setST 31)).events = [.beep] ∧ (tickST (base.setST 1)).events = [] ∧
    (tickDT (base.setDT 0)).DT = 0 := by decide

/-! ## No-ops, the fetch, the halted core -/

/-- NO1. -/
theorem test_noops : [0x0000, 0x0FED, 0x8128, 0x8FF9, 0xE0A0, 0xE19F, 0xF130, 0xF056].all (fun w : Word =>
    after w ((withV (withInputs 0xFFFF 0) [(1, 2), (15, 3)]).setI 0x123) (fun t =>
      t.pc == 0x0202 && t.reg 1 == 2 && t.reg 15 == 3 && t.I == 0x123 && t.fault == none && t.events == [])) = true := by
  decide

/-- FF2, FF3. -/
theorem test_fetch_fault : after 0x0000 (base.setPc 0xFFF) (fun t =>
    t.fault == some { cause := .memoryBounds 0x1000 .fetch, pc := 0x0FFF, opcode := none } && t.pc == 0x0FFF) = true ∧
    after 0x0000 (base.setPc 0x10FE) (fun t => t.fault.map (·.cause) == some (.memoryBounds 0x10FE .fetch)) = true := by decide

/-- R151. -/
theorem test_fault_codes : [Fault.memoryBounds 0x1000 .fetch, .stackOverflow 0, .stackUnderflow, .displayBounds 64 0,
    .indexOverflow 0x10000, .spriteRowAssert, .registerIndex].map Fault.code = [1, 2, 3, 4, 5, 6, 7] := by decide

/-- FF5. -/
theorem test_halted : after 0x6A2F (base.raise .stackUnderflow 0x200 none) (fun t =>
    t.pc == 0x200 && t.reg 0xA == 0) = true := by decide

/-- The host's question: a word placed in the reset state runs, whatever the free inputs of the cycle are. -/
theorem test_withFetchWord : after 0x6A2F State.reset (fun t => t.reg 0xA == 0x2F) = true := by decide

/-! ## Witnesses: states and operands that meet the hypotheses of the statements, one theorem for each clause -/

/-- `exec` of an instruction in a state, checked. -/
def execGives (i : Instr) (s : State) (p : State → Bool) : Bool :=
  match exec i s with
  | .next t => p t
  | .fault _ => false
  | .refused _ => false

theorem exists_of_execGives {i : Instr} {s : State} {p : State → Bool} (h : execGives i s p = true) :
    ∃ t, exec i s = .next t ∧ p t = true := by
  unfold execGives at h
  split at h
  · exact ⟨_, by assumption, h⟩
  · cases h
  · cases h

/-- DecodeOfEncodeReturnsTheInstruction: the lowest and the highest of each no-op set. -/
theorem witness_wf : (Instr.nop0 0x000).wf = true ∧ (Instr.nop0 0xFFF).wf = true ∧ (Instr.nop8 0 0 0x8).wf = true ∧
    (Instr.nop8 15 15 0xF).wf = true ∧ (Instr.nope 0 0x9F).wf = true ∧ (Instr.nopf 15 0x66).wf = true ∧
    (Instr.cls 15).wf = true := by decide

/-- UnlistedWordsExecuteAsNoops, clause by clause, next to the listed values. -/
theorem witness_unlisted : unlistedWord 0x00DF ∧ unlistedWord 0x0FEF ∧ unlistedWord 0x8008 ∧ unlistedWord 0x8FFF ∧
    unlistedWord 0xE09D ∧ unlistedWord 0xEFA2 ∧ unlistedWord 0xF006 ∧ unlistedWord 0xFF66 := by
  refine ⟨?_, ?_, ?_, ?_, ?_, ?_, ?_, ?_⟩ <;> (unfold unlistedWord; decide)

/-- ReturnPopsTheStackOrUnderflows: one entry, and none. -/
theorem witness_ret : ∃ s t : State, s.stack = 0x0206 :: [] ∧ t.stack = [] :=
  ⟨base.setStack [0x0206], base, rfl, rfl⟩

/-- JumpsLoadTheProgramCounter: both jump modes. -/
theorem witness_jpv : base.build.jumpMode = .legacy ∧ (otherBuild base).build.jumpMode = .modern := by decide

/-- CallPushesTheReturnAddressOrOverflows: depth 15, the last that succeeds, and depth 16. -/
theorem witness_call : (base.setStack (List.replicate 15 0x0202)).sp < 16 ∧
    16 ≤ (base.setStack (List.replicate 16 0x0202)).sp := by decide

/-- CallThenReturnRestoresTheProgramCounter. -/
theorem witness_call_ret : ∃ s t u : State, s.sp < 16 ∧ exec (.call 0x20A) s = .next t ∧ u.stack = t.stack :=
  ⟨base.setPc 0x206, ((base.setPc 0x206).setStack [0x0206]).setPc 0x20A,
    (((base.setPc 0x206).setStack [0x0206]).setPc 0x20C).setI 7, by decide, rfl, rfl⟩

/-- ShiftsWriteTheShiftedValueAndTheBitOut: both shift modes. -/
theorem witness_shift :
    (0x05 : Byte) = (if (withV base [(1, 5), (2, 4)]).build.shiftMode = .modern
      then (withV base [(1, 5), (2, 4)]).reg 1 else (withV base [(1, 5), (2, 4)]).reg 2) ∧
    (0x04 : Byte) = (if (withV (otherBuild base) [(1, 5), (2, 4)]).build.shiftMode = .modern
      then (withV (otherBuild base) [(1, 5), (2, 4)]).reg 1 else (withV (otherBuild base) [(1, 5), (2, 4)]).reg 2) := by
  decide

/-- AddToIndexSetsTheFlagOrOverflows: the last sum that fits, and the first that does not. -/
theorem witness_addi :
    (0xFFFF = (base.setI 0xFFFF).I.toNat + ((base.setI 0xFFFF).reg 1).toNat ∧ 0xFFFF ≤ 0xFFFF) ∧
    (0x10000 = (withV (base.setI 0xFFFF) [(1, 1)]).I.toNat + ((withV (base.setI 0xFFFF) [(1, 1)]).reg 1).toNat ∧
      0xFFFF < 0x10000) := by decide

/-- BcdStoresThreeDigitsOrNothing at its two edges. -/
theorem witness_bcd : (base.setI 0xFFD).dataBase ≤ 0xFFD ∧ 0xFFD < (base.setI 0xFFE).dataBase := by decide

/-- StoreRegistersWritesTheSpanOrNothing, LoadRegistersReadsTheSpanOrNothing at their two edges, for `x = 15`; with the
registers of the two inner clauses. -/
theorem witness_span : (base.setI 0xFF0).dataBase + (15 : RegIdx).toNat ≤ 0xFFF ∧
    0xFFF < (base.setI 0xFF1).dataBase + (15 : RegIdx).toNat ∧ (15 : RegIdx).toNat ≤ (15 : RegIdx).toNat ∧
    (base.setI 0xFFF).dataBase + (0 : RegIdx).toNat ≤ 0xFFF ∧ (0 : RegIdx).toNat < (1 : RegIdx).toNat := by decide

/-- StoreThenLoadRestoresTheRegisters: the registers changed in between. -/
theorem witness_store_load : ∃ s t u : State, s.dataBase + (2 : RegIdx).toNat ≤ 0xFFF ∧ exec (.stm 2) s = .next t ∧
    u.mem = t.mem ∧ u.I = t.I ∧ s.reg 1 ≠ u.reg 1 := by
  obtain ⟨t, h, -⟩ := exists_of_execGives (i := .stm 2) (s := withV (base.setI 0x400) [(1, 0x22)]) (p := fun _ => true)
    (by decide)
  refine ⟨_, t, t.setReg 1 0, by decide, h, rfl, rfl, ?_⟩
  rw [State.reg_setReg_same]
  decide

/-- FetchSeesTheBytesJustStored: STM V1 at 0x206 stores at 0x208, where the next fetch reads (program P6). -/
theorem witness_fetch_sees : ∃ s : State, s.fault = none ∧ s.pc.toNat ≤ 0xFFE ∧
    decodeWord (opcodeAt s s.pc) = .stm 1 ∧ s.dataBase + (1 : RegIdx).toNat ≤ 0xFFF ∧
    (0x208 : PcWord).toNat = s.dataBase + (0 : RegIdx).toNat ∧ (1 : RegIdx).toNat = (0 : RegIdx).toNat + 1 ∧
    (1 : RegIdx).toNat ≤ (1 : RegIdx).toNat :=
  ⟨(withMem (base.setI 0x208) 0x206 [0xF1, 0x55]).setPc 0x206, by decide⟩

/-- DrawFlipsExactlyTheSpritePixels: the pixel of the last column and the last row (DR8, DR10 together). -/
theorem witness_draw : ∃ s : State, 62 = (s.reg 0).toNat % 63 ∧ 31 = (s.reg 1).toNat ∧
    ((1 : BitVec 4).toNat = 0 ∨ s.dataBase + (1 : BitVec 4).toNat ≤ 0x1000) ∧
    (∀ r k, r < (1 : BitVec 4).toNat → k < 8 → spriteBit s r k = true → ¬offScreen (62 + k) (31 + r)) ∧
    spriteBit s 0 1 = true := by
  refine ⟨withV (withMem (base.setI 0xFFF) 0xFFF [0xC0]) [(0, 62), (1, 31)], by decide, by decide, by decide, ?_, by decide⟩
  have key : ∀ k : Fin 8, spriteBit (withV (withMem (base.setI 0xFFF) 0xFFF [0xC0]) [(0, 62), (1, 31)]) 0 k.val = true →
      ¬(63 < 62 + k.val ∨ 31 < 31 + 0) := by decide
  intro r k hr hk hb
  have h0 : r = 0 := by
    have : (1 : BitVec 4).toNat = 1 := rfl
    omega
  subst h0
  exact key ⟨k, hk⟩ hb

/-- DrawFlipsExactlyTheSpritePixels with no row: nothing is read, whatever `I` is (DR17). -/
theorem witness_draw_no_rows : ∃ s : State, 0x1000 < s.dataBase ∧ (0 : BitVec 4).toNat = 0 :=
  ⟨base.setI 0x2000, by decide⟩

/-- DrawFaultsWhenARowIsOutOfMemory: the first base for 15 rows that is too high (DR20). -/
theorem witness_draw_memory : (15 : BitVec 4).toNat ≠ 0 ∧ 0x1000 < (base.setI 0xFF2).dataBase + (15 : BitVec 4).toNat := by
  decide

/-- DrawFaultsAtTheFirstPixelOffTheGrid: the set bit at column 64 of row 31 (DR15), with the earlier ones on the grid. -/
theorem witness_draw_off : ∃ s : State, 60 = (s.reg 0).toNat % 63 ∧ 31 = (s.reg 1).toNat ∧
    s.dataBase + (2 : BitVec 4).toNat ≤ 0x1000 ∧ 0 < (2 : BitVec 4).toNat ∧ spriteBit s 0 4 = true ∧
    offScreen (60 + 4) (31 + 0) ∧
    (∀ r' k', before r' k' 0 4 → k' < 8 → spriteBit s r' k' = true → ¬offScreen (60 + k') (31 + r')) := by
  refine ⟨withV (withMem (base.setI 0x300) 0x300 [0x0F, 0x80]) [(0, 60), (1, 31)], by decide, by decide, by decide,
    by decide, by decide, .inl (by decide), ?_⟩
  have key : ∀ k : Fin 4,
      spriteBit (withV (withMem (base.setI 0x300) 0x300 [0x0F, 0x80]) [(0, 60), (1, 31)]) 0 k.val = false := by decide
  intro r' k' hb _ hs
  obtain ⟨hr, hk⟩ : r' = 0 ∧ k' < 4 := by
    unfold before at hb
    omega
  subst hr
  rw [key ⟨k', hk⟩] at hs
  cases hs

/-- DrawFaultsAtTheFirstPixelOffTheGrid: a row below the grid (DR11). -/
theorem witness_draw_below : ∃ s : State, 0 = (s.reg 0).toNat % 63 ∧ 32 = (s.reg 1).toNat ∧ spriteBit s 0 0 = true ∧
    offScreen (0 + 0) (32 + 0) ∧ ∀ r' k', ¬before r' k' 0 0 := by
  refine ⟨withV (withMem (base.setI 0x300) 0x300 [0x80]) [(1, 32)], by decide, by decide, by decide, .inr (by decide), ?_⟩
  intro r' k' h
  unfold before at h
  omega

/-- FlipsAreSelfInverseAndCommute: the last pixel of the grid. -/
theorem witness_flip : (63 : Nat) < 64 ∧ (31 : Nat) < 32 := by decide

/-- DrawingTwiceRestoresTheBuffer: a first draw that does not fault and changes something. -/
theorem witness_draw_twice : ∃ s t : State, s.fault = none ∧ exec (.drw 0 0 1) s = .next t ∧ t.fault = none ∧
    t.fb.pixel 0 0 = true := by
  obtain ⟨t, h, hp⟩ := exists_of_execGives (i := .drw 0 0 1) (s := withMem (base.setI 0x300) 0x300 [0x80])
    (p := fun t => decide (t.fault = none ∧ t.fb.pixel 0 0 = true)) (by decide)
  exact ⟨_, t, rfl, h, of_decide_eq_true hp⟩

/-- KeySkipsTestTheSnapshot: key 15 held, and code 16 never held. -/
theorem witness_keys :
    (True ↔ ((withV (withInputs 0x8000 0) [(4, 15)]).reg 4).toNat ≤ 15 ∧
      (withV (withInputs 0x8000 0) [(4, 15)]).keys.getLsbD ((withV (withInputs 0x8000 0) [(4, 15)]).reg 4).toNat = true) ∧
    (False ↔ ((withV (withInputs 0xFFFF 0) [(4, 16)]).reg 4).toNat ≤ 15 ∧
      (withV (withInputs 0xFFFF 0) [(4, 16)]).keys.getLsbD ((withV (withInputs 0xFFFF 0) [(4, 16)]).reg 4).toNat = true) := by
  decide

/-- WaitRepeatsUntilAnyKeyIsHeld: no key, and each of the two outermost keys. -/
theorem witness_wait : (∀ k, k < 16 → base.keys.getLsbD k = false) ∧ (withInputs 0x0001 0).keys.getLsbD 0 = true ∧
    (withInputs 0x8000 0).keys.getLsbD 15 = true := by decide

/-- The statements on ticks, whose hypothesis is that nothing has faulted; with the values where their clauses meet. -/
theorem witness_ticks : base.fault = none ∧ ((base.setST 31).ST.toNat - 1 ≠ 0 ∧ ((base.setST 31).ST.toNat - 1) % 30 = 0) ∧
    ((base.setST 1).ST.toNat - 1 = 0) ∧ ((base.setST 30).ST.toNat - 1) % 30 ≠ 0 := by decide

/-- StepRunsTheDecodedInstruction: an instruction that does not fault, fetched from the last place there is. -/
theorem witness_step : ∃ s t : State, s.fault = none ∧ s.pc.toNat ≤ 0xFFE ∧
    exec (decodeWord (opcodeAt s s.pc)) (s.setPc (s.pc + 2)) = .next t ∧ t.fault = none := by
  obtain ⟨t, h, hp⟩ := exists_of_execGives (i := .ldImm 0 0x11)
    (s := (withMem (base.setPc 0xFFE) 0xFFE [0x60, 0x11]).setPc 0x1000) (p := fun t => decide (t.fault = none)) (by decide)
  exact ⟨withMem (base.setPc 0xFFE) 0xFFE [0x60, 0x11], t, rfl, by decide, h, of_decide_eq_true hp⟩

/-- StepRunsTheDecodedInstruction: an instruction that faults (CT9). -/
theorem witness_step_fault : ∃ s t : State, s.fault = none ∧ s.pc.toNat ≤ 0xFFE ∧
    exec (decodeWord (opcodeAt s s.pc)) (s.setPc (s.pc + 2)) = .next t ∧ t.fault ≠ none := by
  obtain ⟨t, h, hp⟩ := exists_of_execGives (i := .ret 0)
    (s := (withMem base 0x200 [0x00, 0xEE]).setPc 0x202) (p := fun t => decide (t.fault ≠ none)) (by decide)
  exact ⟨withMem base 0x200 [0x00, 0xEE], t, rfl, by decide, h, of_decide_eq_true hp⟩

/-- StepRunsThePlacedOpcode: the reset state. -/
theorem witness_placed : State.reset.fault = none ∧ State.reset.pc.toNat ≤ 0xFFE := by decide

/-- The frames: an instruction that stores, completes, and leaves a register and a byte it does not name. -/
theorem witness_frames : ∃ s t : State, exec (.stm 0) s = .next t ∧ (Instr.stm 0).writesReg 3 = false ∧
    ¬(Instr.stm 0).stores s 0x401 := by
  obtain ⟨t, h, -⟩ := exists_of_execGives (i := .stm 0) (s := base.setI 0x400) (p := fun _ => true) (by decide)
  refine ⟨_, t, h, by decide, ?_⟩
  show ¬(0x400 ≤ 0x401 ∧ 0x401 < 0x400 + 1)
  decide

/-- The statements whose hypothesis is a step: StepsKeepTheBuildSwitches, PixelsNeverInfluenceAnythingElse,
TheSoundTimerNeverInfluencesAProgram, EveryStepKeepsTheInvariant (the reset state meets the invariant). -/
theorem witness_inv_step : ∃ s t : State, Inv s ∧ step s = .next t ∧ t.pc = 0x202 := by
  have hi : Inv base :=
    ⟨by decide, by decide, fun r h => (by cases h), by decide, fun c h => (by cases h), fun r h => (by cases h)⟩
  exact ⟨base, betweenCycles (base.setPc 0x202), hi, rfl, rfl⟩

/-- FetchFaultsAboveTheLastOpcode: the first address whose second byte does not exist, and the first that does not exist. -/
theorem witness_fetch_fault : 0xFFE < (base.setPc 0xFFF).pc.toNat ∧ 0xFFE < (base.setPc 0x1000).pc.toNat ∧
    base.fault = none := by decide

/-- AHaltedMachineNeverChanges. -/
theorem witness_halted : (base.raise .stackUnderflow 0x200 (some 0x00EE)).halted := by
  unfold State.halted
  decide

/-- FaultsArePrecise: a fetch fault, and an execute fault. -/
theorem witness_precise : (∃ s t : State, ∃ r, s.fault = none ∧ step s = .next t ∧ t.fault = some r ∧ 0xFFE < s.pc.toNat) ∧
    (∃ s t : State, ∃ r, s.fault = none ∧ step s = .next t ∧ t.fault = some r ∧ s.pc.toNat ≤ 0xFFE) :=
  ⟨⟨base.setPc 0xFFF, (base.setPc 0xFFF).raise (.memoryBounds 0x1000 .fetch) 0xFFF none, _, rfl, rfl, rfl, by decide⟩,
   ⟨withMem base 0x200 [0x00, 0xEE],
    ((withMem base 0x200 [0x00, 0xEE]).setPc 0x202).raise .stackUnderflow 0x200 (some 0x00EE), _, rfl, rfl, rfl,
    by decide⟩⟩

/-- BootLaysOutTheFontAndTheImage: the longest image, and the shortest that is too long; with addresses of each clause. -/
theorem witness_boot : (List.replicate 3584 (0 : Byte)).length ≤ 3584 ∧ 3584 < (List.replicate 3585 (0 : Byte)).length ∧
    (79 < 80) ∧ ¬(0x050 ≤ 0x0A0 ∧ 0x0A0 < 0x0A0) := by
  simp only [List.length_replicate]
  decide

/-- SettledStatesStaySettled: `12 0C` at 0x20C, and the last place where an opcode fits. -/
theorem witness_settled : (withMem (base.setPc 0x20C) 0x20C [0x12, 0x0C]).settled ∧
    (withMem (base.setPc 0xFFE) 0xFFE [0x1F, 0xFE]).settled := by
  unfold State.settled
  decide

end Sys2Proof.Tests
end

/-! ## The build switches (spec/00_scope.md R4, spec/10_state.md R32)

No operation of the machine writes the field `build`. The operations that answer the state itself have their law in
Laws/State.lean; here are the laws of the operations that may fault, then of the execute phase, then of the step. -/

namespace Sys2Proof.Machine

@[simp] theorem State.setRegsFrom_build (s : State) (k : Nat) (bytes : List Byte) :
    (s.setRegsFrom k bytes).build = s.build := by
  rw [State.setRegsFrom_eq]

theorem raiseIn_build {i : Instr} {f : Fault} {s t : State} (h : raiseIn i f s = .next t) : t.build = s.build := by
  rw [raiseIn_next h, State.raise_build]

theorem storeAtI_build {i : Instr} {bytes : List Byte} {s t : State} (h : storeAtI i bytes s = .next t) :
    t.build = s.build := by
  obtain ⟨rfl, -⟩ | ⟨rfl, -⟩ := storeAtI_cases h
  · exact State.setMem_build _ _
  · exact State.raise_build _ _ _ _

theorem drawRows_build {i : Instr} {x0 y0 : Nat} {rows : List Byte} {s t : State}
    (h : drawRows i x0 y0 rows s = .next t) : t.build = s.build := by
  obtain ⟨rfl, -⟩ | ⟨_, -, rfl⟩ := drawRows_cases h
  · rw [State.emit_build, State.setFb_build]
  · exact State.raise_build _ _ _ _

theorem execRet_build {x : RegIdx} {s t : State} (h : execRet x s = .next t) : t.build = s.build := by
  cases hs : s.stack with
  | nil =>
    rw [execRet, State.pop_nil hs] at h
    exact raiseIn_build h
  | cons target rest =>
    rw [execRet, State.pop_cons hs] at h
    cases h
    rw [State.setPc_build, State.setStack_build]

theorem execCall_build {nnn : Addr12} {s t : State} (h : execCall nnn s = .next t) : t.build = s.build := by
  rw [execCall, State.push_eq] at h
  by_cases hd : s.sp < Config.stackDepth
  · rw [if_pos hd] at h
    cases h
    rw [State.setPc_build, State.setStack_build]
  · rw [if_neg hd] at h
    exact raiseIn_build h

theorem execDrw_build {x y : RegIdx} {n : BitVec 4} {s t : State} (h : execDrw x y n s = .next t) :
    t.build = s.build := by
  by_cases hr : n.toNat = 0 ∨ s.dataBase + n.toNat ≤ Config.memSize
  · rw [execDrw_rows hr] at h
    exact drawRows_build h
  · rw [execDrw_fault hr] at h
    exact raiseIn_build h

theorem execAddi_build {x : RegIdx} {s t : State} (h : execAddi x s = .next t) : t.build = s.build := by
  by_cases hfit : s.I.toNat + (s.reg x).toNat ≤ 0xFFFF
  · rw [execAddi_ok hfit] at h
    cases h
    rw [State.setReg_build, State.setI_build]
  · rw [execAddi_fault (by omega)] at h
    exact raiseIn_build h

theorem execLdm_build {x : RegIdx} {s t : State} (h : execLdm x s = .next t) : t.build = s.build := by
  by_cases hr : s.dataBase + (x.toNat + 1) ≤ Config.memSize
  · rw [execLdm_ok hr] at h
    cases h
    exact State.setRegsFrom_build _ _ _
  · rw [execLdm_fault (by omega)] at h
    exact raiseIn_build h

/-- The execute phase keeps the switches: the instructions that can fault by their own laws, every other one because
its answer is the state under updates of other fields. -/
theorem exec_build {i : Instr} {s t : State} (h : exec i s = .next t) : t.build = s.build := by
  cases i with
  | ret => exact execRet_build h
  | call => exact execCall_build h
  | drw => exact execDrw_build h
  | addi => exact execAddi_build h
  | bcd | stm => exact storeAtI_build h
  | ldm => exact execLdm_build h
  | cls | jp | jpv | seImm | sneImm | seReg | sneReg | skp | sknp | waitk | ldi | font | setdt | setst
  | ldImm | addImm | mov | or | and | xor | add | sub | shr | subn | shl | rnd | getdt
  | nop0 | nop8 | nope | nopf =>
    cases h
    rfl

end Sys2Proof.Machine

namespace Sys2Proof.Claims

open Sys2Proof.Machine

/-- Settles O45: a step halts, faults in the fetch, or executes an instruction and lets the ticks run, and none of these
writes a switch. -/
theorem stepsKeepTheBuildSwitches : Obligations.StepsKeepTheBuildSwitches := by
  intro s t h
  obtain ⟨-, rfl⟩ | ⟨-, -, rfl⟩ | ⟨-, -, u, hu, rfl⟩ := step_cases h
  · rfl
  · exact State.raise_build _ _ _ _
  · rw [betweenCycles_build, exec_build hu, State.advance_build]

end Sys2Proof.Claims

/-! ## Frames of the named updates (spec/10_state.md R13 to R26)

What each update of the state can change, as an `UnchangedBut`; two updates in a row change what either of them may. -/

namespace Sys2Proof.Machine

theorem Same.refl (p : Part) (s : State) : Same p s s := by
  cases p <;> simp [Same]

theorem Same.trans {p : Part} {s t u : State} (h : Same p s t) (h' : Same p t u) : Same p s u := by
  cases p with
  | inputs => exact ⟨h'.1.trans h.1, h'.2.trans h.2⟩
  | regs | mem => exact fun a => (h' a).trans (h a)
  | fb => exact fun x y => (h' x y).trans (h x y)
  | _ => exact Eq.trans h' h

theorem UnchangedBut.refl (c : List Part) (s : State) : UnchangedBut c s s := fun p _ => Same.refl p s

theorem UnchangedBut.mono {c d : List Part} {s t : State} (h : UnchangedBut c s t) (hcd : c ⊆ d) :
    UnchangedBut d s t :=
  fun p hp => h p fun hc => hp (hcd hc)

theorem UnchangedBut.trans {c d : List Part} {s t u : State} (h : UnchangedBut c s t) (h' : UnchangedBut d t u) :
    UnchangedBut (c ++ d) s u := by
  intro p hp
  rw [List.mem_append, not_or] at hp
  exact (h p hp.1).trans (h' p hp.2)

section

variable (s : State)

theorem State.setReg_unchangedBut (x : RegIdx) (b : Byte) : UnchangedBut [.regs] s (s.setReg x b) := by
  intro p hp
  cases p <;> simp_all [Same]

theorem State.setI_unchangedBut (w : IndexWord) : UnchangedBut [.I] s (s.setI w) := by
  intro p hp
  cases p <;> simp_all [Same]

theorem State.setPc_unchangedBut (w : PcWord) : UnchangedBut [.pc] s (s.setPc w) := by
  intro p hp
  cases p <;> simp_all [Same]

theorem State.setStack_unchangedBut (l : List PcWord) : UnchangedBut [.stack] s (s.setStack l) := by
  intro p hp
  cases p <;> simp_all [Same]

theorem State.setDT_unchangedBut (b : Byte) : UnchangedBut [.DT] s (s.setDT b) := by
  intro p hp
  cases p <;> simp_all [Same]

theorem State.setST_unchangedBut (b : Byte) : UnchangedBut [.ST] s (s.setST b) := by
  intro p hp
  cases p <;> simp_all [Same]

theorem State.setFb_unchangedBut (f : FrameBuffer) : UnchangedBut [.fb] s (s.setFb f) := by
  intro p hp
  cases p <;> simp_all [Same]

theorem State.setMem_unchangedBut (m : Memory) : UnchangedBut [.mem] s (s.setMem m) := by
  intro p hp
  cases p <;> simp_all [Same]

theorem State.emit_unchangedBut (e : Event) : UnchangedBut [.events] s (s.emit e) := by
  intro p hp
  cases p <;> simp_all [Same]

/-- A raise writes the record alone (R156). -/
theorem State.raise_unchangedBut (f : Fault) (a : PcWord) (o : Option Word) :
    UnchangedBut [.fault] s (s.raise f a o) := by
  intro p hp
  cases p <;> simp_all [Same]

theorem State.setRegsFrom_unchangedBut (k : Nat) (bytes : List Byte) :
    UnchangedBut [.regs] s (s.setRegsFrom k bytes) := by
  rw [State.setRegsFrom_eq]
  intro p hp
  cases p <;> simp_all [Same]

theorem State.resultThenFlag_unchangedBut (x : RegIdx) (b f : Byte) :
    UnchangedBut [.regs] s (s.resultThenFlag x b f) :=
  ((s.setReg_unchangedBut x b).trans (State.setReg_unchangedBut _ vF f)).mono (by simp)

theorem State.flagThenResult_unchangedBut (x : RegIdx) (b f : Byte) :
    UnchangedBut [.regs] s (s.flagThenResult x b f) :=
  ((s.setReg_unchangedBut vF f).trans (State.setReg_unchangedBut _ x b)).mono (by simp)

end

/-! ## What the instructions that may fault can do

RET, CALL, DRW, ADDI, LDM and the stores answer either a fault of the execute phase or their own effect. -/

/-- `t` is what a fault of instruction `i` in its execute phase makes of `s`: a record with one of the causes such a fault
can have (R151), and nothing else (R156). -/
def ExecFault (i : Instr) (s t : State) : Prop :=
  ∃ f : Fault, f.canOccur = true ∧ f.isFetch = false ∧ t = s.raise f (s.pc - 2) (some (encode i))

theorem raiseIn_execFault {i : Instr} {f : Fault} {s t : State} (h : raiseIn i f s = .next t)
    (hc : f.canOccur = true) (hf : f.isFetch = false) : ExecFault i s t :=
  ⟨f, hc, hf, raiseIn_next h⟩

theorem ExecFault.unchangedBut {i : Instr} {s t : State} (h : ExecFault i s t) : UnchangedBut [.fault] s t := by
  obtain ⟨f, -, -, rfl⟩ := h
  exact s.raise_unchangedBut _ _ _

/-- RET with a stack that holds something (R80). -/
theorem execRet_pop {x : RegIdx} {s : State} {target : PcWord} {rest : List PcWord} (h : s.stack = target :: rest) :
    execRet x s = .next ((s.setStack rest).setPc target) := by
  rw [execRet, State.pop_cons h]

/-- RET with an empty stack (R21, R80). -/
theorem execRet_underflow {x : RegIdx} {s : State} (h : s.stack = []) :
    execRet x s = raiseIn (.ret x) .stackUnderflow s := by
  rw [execRet, State.pop_nil h]

/-- CALL below the depth limit (R82). -/
theorem execCall_push {nnn : Addr12} {s : State} (h : s.sp < Config.stackDepth) :
    execCall nnn s = .next ((s.setStack (s.pc :: s.stack)).setPc (zextPc nnn)) := by
  rw [execCall, State.push_eq, if_pos h]

/-- CALL at the depth limit (R20, R82). -/
theorem execCall_overflow {nnn : Addr12} {s : State} (h : ¬s.sp < Config.stackDepth) :
    execCall nnn s = raiseIn (.call nnn) (.stackOverflow s.pc) s := by
  rw [execCall, State.push_eq, if_neg h]

theorem execRet_cases {x : RegIdx} {s t : State} (h : execRet x s = .next t) :
    ExecFault (.ret x) s t ∨
      ∃ target rest, s.stack = target :: rest ∧ t = (s.setStack rest).setPc target := by
  cases hs : s.stack with
  | nil =>
    rw [execRet_underflow hs] at h
    exact .inl (raiseIn_execFault h rfl rfl)
  | cons target rest =>
    rw [execRet_pop hs] at h
    cases h
    exact .inr ⟨target, rest, rfl, rfl⟩

theorem execCall_cases {nnn : Addr12} {s t : State} (h : execCall nnn s = .next t) :
    ExecFault (.call nnn) s t ∨
      (s.sp < Config.stackDepth ∧ t = (s.setStack (s.pc :: s.stack)).setPc (zextPc nnn)) := by
  by_cases hd : s.sp < Config.stackDepth
  · rw [execCall_push hd] at h
    cases h
    exact .inr ⟨hd, rfl⟩
  · rw [execCall_overflow hd] at h
    exact .inl (raiseIn_execFault h rfl rfl)

theorem execDrw_cases {x y : RegIdx} {n : BitVec 4} {s t : State} (h : execDrw x y n s = .next t) :
    ExecFault (.drw x y n) s t ∨
      t = (s.setFb (s.fb.flipAll (spritePixels (spriteColumn (s.reg x)) (s.reg y).toNat
        ((List.range' s.dataBase n.toNat).map (Memory.read s.mem))))).emit .present := by
  by_cases hr : n.toNat = 0 ∨ s.dataBase + n.toNat ≤ Config.memSize
  · rw [execDrw_rows hr] at h
    obtain ⟨rfl, -⟩ | ⟨p, -, rfl⟩ := drawRows_cases h
    · exact .inr rfl
    · exact .inl ⟨_, rfl, rfl, rfl⟩
  · rw [execDrw_fault hr] at h
    exact .inl (raiseIn_execFault h rfl rfl)

theorem execAddi_cases {x : RegIdx} {s t : State} (h : execAddi x s = .next t) :
    ExecFault (.addi x) s t ∨
      t = (s.setI (BitVec.ofNat Config.iWidth (s.I.toNat + (s.reg x).toNat))).setReg vF
        (indexFlag (s.I.toNat + (s.reg x).toNat)) := by
  by_cases hfit : s.I.toNat + (s.reg x).toNat ≤ 0xFFFF
  · rw [execAddi_ok hfit] at h
    cases h
    exact .inr rfl
  · rw [execAddi_fault (by omega)] at h
    exact .inl (raiseIn_execFault h rfl rfl)

theorem execLdm_cases {x : RegIdx} {s t : State} (h : execLdm x s = .next t) :
    ExecFault (.ldm x) s t ∨
      t = s.setRegsFrom 0 ((List.range' s.dataBase (x.toNat + 1)).map (Memory.read s.mem)) := by
  by_cases hr : s.dataBase + (x.toNat + 1) ≤ Config.memSize
  · rw [execLdm_ok hr] at h
    cases h
    exact .inr rfl
  · rw [execLdm_fault (by omega)] at h
    exact .inl (raiseIn_execFault h rfl rfl)

/-- A store either faults or writes its bytes, all of them inside memory. -/
theorem storeAtI_effect {i : Instr} {bytes : List Byte} {s t : State} (h : storeAtI i bytes s = .next t) :
    ExecFault i s t ∨
      ((bytes = [] ∨ s.dataBase + bytes.length ≤ Config.memSize) ∧
        t = s.setMem (Memory.writeBytes s.mem s.dataBase bytes)) := by
  obtain ⟨rfl, hr⟩ | ⟨rfl, -⟩ := storeAtI_cases h
  · exact .inr ⟨hr, rfl⟩
  · exact .inl ⟨_, rfl, rfl, rfl⟩

/-! ## The frame of every instruction (R13 to R26, spec/20_memory.md R43) -/

theorem storeAtI_unchangedBut {i : Instr} {bytes : List Byte} {s t : State} (h : storeAtI i bytes s = .next t) :
    UnchangedBut [.mem, .fault] s t := by
  obtain hf | ⟨-, rfl⟩ := storeAtI_effect h
  · exact hf.unchangedBut.mono (by simp)
  · exact (s.setMem_unchangedBut _).mono (by simp)

/-- Each instruction is the named updates its rule asks for, or a fault, so its frame is theirs. -/
theorem exec_unchangedBut {i : Instr} {s t : State} (h : exec i s = .next t) : UnchangedBut i.mayChange s t := by
  cases i with
  | cls =>
    cases h
    exact (s.setFb_unchangedBut _).trans (State.emit_unchangedBut _ _)
  | ret =>
    obtain hf | ⟨target, rest, -, rfl⟩ := execRet_cases h
    · exact hf.unchangedBut.mono (by simp [Instr.mayChange])
    · exact ((s.setStack_unchangedBut _).trans (State.setPc_unchangedBut _ _)).mono (by simp [Instr.mayChange])
  | call =>
    obtain hf | ⟨-, rfl⟩ := execCall_cases h
    · exact hf.unchangedBut.mono (by simp [Instr.mayChange])
    · exact ((s.setStack_unchangedBut _).trans (State.setPc_unchangedBut _ _)).mono (by simp [Instr.mayChange])
  | drw =>
    obtain hf | rfl := execDrw_cases h
    · exact hf.unchangedBut.mono (by simp [Instr.mayChange])
    · exact ((s.setFb_unchangedBut _).trans (State.emit_unchangedBut _ _)).mono (by simp [Instr.mayChange])
  | addi =>
    obtain hf | rfl := execAddi_cases h
    · exact hf.unchangedBut.mono (by simp [Instr.mayChange])
    · exact ((s.setI_unchangedBut _).trans (State.setReg_unchangedBut _ _ _)).mono (by simp [Instr.mayChange])
  | ldm =>
    obtain hf | rfl := execLdm_cases h
    · exact hf.unchangedBut.mono (by simp [Instr.mayChange])
    · exact (s.setRegsFrom_unchangedBut _ _).mono (by simp [Instr.mayChange])
  | bcd | stm => exact storeAtI_unchangedBut h
  | jp | jpv | seImm | sneImm | seReg | sneReg | skp | sknp | waitk =>
    cases h
    exact s.setPc_unchangedBut _
  | ldImm | addImm | mov | or | and | xor | rnd | getdt =>
    cases h
    exact s.setReg_unchangedBut _ _
  | add =>
    cases h
    exact s.resultThenFlag_unchangedBut _ _ _
  | sub | shr | subn | shl =>
    cases h
    exact s.flagThenResult_unchangedBut _ _ _
  | ldi | font =>
    cases h
    exact s.setI_unchangedBut _
  | setdt =>
    cases h
    exact s.setDT_unchangedBut _
  | setst =>
    cases h
    exact s.setST_unchangedBut _
  | nop0 | nop8 | nope | nopf =>
    cases h
    exact UnchangedBut.refl _ s

/-! ## The registers an instruction writes (R13) -/

theorem ExecFault.reg_eq {i : Instr} {s t : State} (h : ExecFault i s t) (r : RegIdx) : t.reg r = s.reg r :=
  h.unchangedBut .regs (by simp) r

/-- LDM writes `V[0]` to `V[X]` alone (R116). -/
theorem execLdm_reg_of_lt {x r : RegIdx} {s t : State} (h : execLdm x s = .next t) (hr : x.toNat < r.toNat) :
    t.reg r = s.reg r := by
  obtain hf | rfl := execLdm_cases h
  · exact hf.reg_eq r
  · have hx : x.toNat < 16 := x.isLt
    rw [State.reg_setRegsFrom _ _ _ _ (by simp; omega), if_neg (by simp; omega)]

/-- Where an instruction may change registers, by what a register reads after its writes; elsewhere by its frame. -/
theorem exec_reg_of_not_writesReg {i : Instr} {s t : State} {r : RegIdx} (h : exec i s = .next t)
    (hr : i.writesReg r = false) : t.reg r = s.reg r := by
  cases i with
  | ldImm | addImm | mov | or | and | xor | rnd | getdt =>
    cases h
    exact s.reg_setReg_ne _ (beq_eq_false_iff_ne.mp hr)
  | add =>
    cases h
    obtain ⟨hx, hF⟩ : r ≠ _ ∧ r ≠ vF := by simpa [Instr.writesReg] using hr
    rw [State.reg_resultThenFlag, if_neg hF, if_neg hx]
  | sub | shr | subn | shl =>
    cases h
    obtain ⟨hx, hF⟩ : r ≠ _ ∧ r ≠ vF := by simpa [Instr.writesReg] using hr
    rw [State.reg_flagThenResult, if_neg hx, if_neg hF]
  | addi =>
    obtain hf | rfl := execAddi_cases h
    · exact hf.reg_eq r
    · exact State.reg_setReg_ne _ _ (beq_eq_false_iff_ne.mp hr)
  | ldm => exact execLdm_reg_of_lt h (by simpa [Instr.writesReg] using hr)
  | cls | ret | call | jp | jpv | seImm | sneImm | seReg | sneReg | skp | sknp | waitk | ldi | font | bcd | stm | drw
  | setdt | setst | nop0 | nop8 | nope | nopf =>
    exact exec_unchangedBut h .regs (by simp [Instr.mayChange]) r

/-! ## The invariant (R17, R19, R20, spec/20_memory.md R40, spec/60_exceptions.md R151, R156, R158)

One lemma for each part of the state the invariant speaks of. -/

/-- The invariant reads `pc`, the stack, memory and the fault record only. -/
theorem Inv.congr {s t : State} (h : Inv s) (hpc : t.pc = s.pc) (hst : t.stack = s.stack) (hm : t.mem = s.mem)
    (hf : t.fault = s.fault) : Inv t where
  pcBound := hpc ▸ h.pcBound
  depth := hst ▸ h.depth
  returns := hst ▸ h.returns
  memWf := hm ▸ h.memWf
  memInSpace := hm ▸ h.memInSpace
  faultFits := by rw [hf, hpc]; exact h.faultFits

/-- While no fault is recorded `pc` may move anywhere within its bound. -/
theorem Inv.setPc {s : State} (h : Inv s) (hf : s.fault = none) {w : PcWord} (hw : w.toNat ≤ 0x10FE) :
    Inv (s.setPc w) where
  pcBound := hw
  depth := h.depth
  returns := h.returns
  memWf := h.memWf
  memInSpace := h.memInSpace
  faultFits r hr := by simp [hf] at hr

theorem Inv.setStack {s : State} (h : Inv s) {l : List PcWord} (hd : l.length ≤ Config.stackDepth)
    (hl : ∀ r ∈ l, r.toNat ≤ 0x1000) : Inv (s.setStack l) where
  pcBound := h.pcBound
  depth := hd
  returns := hl
  memWf := h.memWf
  memInSpace := h.memInSpace
  faultFits := h.faultFits

theorem Inv.setMem {s : State} (h : Inv s) {m : Memory} (hw : Memory.wf m) (hs : Memory.inSpace m) :
    Inv (s.setMem m) where
  pcBound := h.pcBound
  depth := h.depth
  returns := h.returns
  memWf := hw
  memInSpace := hs
  faultFits := h.faultFits

theorem Inv.raise {s : State} (h : Inv s) {f : Fault} {a : PcWord} {o : Option Word}
    (hr : FaultRecord.fits { cause := f, pc := a, opcode := o } s.pc) : Inv (s.raise f a o) where
  pcBound := h.pcBound
  depth := h.depth
  returns := h.returns
  memWf := h.memWf
  memInSpace := h.memInSpace
  faultFits r he := by
    rw [State.raise_fault, Option.some.injEq] at he
    exact he ▸ hr

/-- A fault of the execute phase records `pc − 2` and an opcode (R156, R158). -/
theorem ExecFault.inv {i : Instr} {s t : State} (h : ExecFault i s t) (hi : Inv s) : Inv t := by
  obtain ⟨f, hc, hf, rfl⟩ := h
  exact hi.raise ⟨hc, hf, (BitVec.sub_add_cancel s.pc 2).symm⟩

theorem storeAtI_inv {i : Instr} {bytes : List Byte} {s t : State} (hi : Inv s) (h : storeAtI i bytes s = .next t) :
    Inv t := by
  obtain hf | ⟨rfl | hr, rfl⟩ := storeAtI_effect h
  · exact hf.inv hi
  · exact hi.setMem hi.memWf hi.memInSpace
  · exact hi.setMem (Memory.writeBytes_wf _ _ hi.memWf) (Memory.writeBytes_inSpace _ hr hi.memInSpace)

section

variable {s t : State} (hi : Inv s) (hf : s.fault = none)

include hi hf

/-- RET goes to a return address (R17). -/
theorem execRet_inv {x : RegIdx} (h : execRet x s = .next t) : Inv t := by
  obtain hx | ⟨target, rest, hs, rfl⟩ := execRet_cases h
  · exact hx.inv hi
  · have hd := hi.depth
    have hr := hi.returns
    rw [hs] at hd hr
    obtain ⟨htop, hrest⟩ := List.forall_mem_cons.mp hr
    exact (hi.setStack (Nat.le_of_succ_le hd) hrest).setPc hf (Nat.le_trans htop (by decide))

/-- CALL pushes its advanced `pc`, which is at most 0x1000 (R17, R20). -/
theorem execCall_inv {nnn : Addr12} (hp : s.pc.toNat ≤ 0x1000) (h : execCall nnn s = .next t) : Inv t := by
  obtain hx | ⟨hd, rfl⟩ := execCall_cases h
  · exact hx.inv hi
  · have hn := nnn.isLt
    have hpush : Inv (s.setStack (s.pc :: s.stack)) := hi.setStack hd (List.forall_mem_cons.mpr ⟨hp, hi.returns⟩)
    exact hpush.setPc hf (by rw [zextPc_toNat]; omega)

theorem Inv.skipIf (hp : s.pc.toNat ≤ 0x1000) (c : Bool) : Inv (s.skipIf c) := by
  refine hi.setPc hf ?_
  cases c with
  | false => exact hi.pcBound
  | true =>
    have hadd : (s.pc + 2).toNat = s.pc.toNat + 2 := PcWord.toNat_add_two (by omega)
    show (s.pc + 2).toNat ≤ 0x10FE
    omega

/-- Re-execution goes back to the address the cycle fetched from (R133). -/
theorem Inv.rewindIf (hp : 2 ≤ s.pc.toNat) (c : Bool) : Inv (s.rewindIf c) := by
  refine hi.setPc hf ?_
  cases c with
  | false => exact hi.pcBound
  | true =>
    have hb := hi.pcBound
    have hsub : (s.pc - 2).toNat = s.pc.toNat - 2 := BitVec.toNat_sub_of_le hp
    show (s.pc - 2).toNat ≤ 0x10FE
    omega

/-- The execute phase keeps the invariant, from an advanced `pc`: that is from 2 to 0x1000. -/
theorem exec_inv {i : Instr} (h2 : 2 ≤ s.pc.toNat) (hp : s.pc.toNat ≤ 0x1000) (h : exec i s = .next t) : Inv t := by
  cases i with
  | ret => exact execRet_inv hi hf h
  | call => exact execCall_inv hi hf hp h
  | jp nnn =>
    cases h
    have hn := nnn.isLt
    exact hi.setPc hf (by rw [zextPc_toNat]; omega)
  | jpv nnn =>
    cases h
    have hn := nnn.isLt
    have hb := (s.jumpOffset nnn).isLt
    exact hi.setPc hf (by rw [jpv_target_toNat]; omega)
  | seImm | sneImm | seReg | sneReg | skp | sknp =>
    cases h
    exact hi.skipIf hf hp _
  | waitk =>
    cases h
    exact hi.rewindIf hf h2 _
  | bcd | stm => exact storeAtI_inv hi h
  | drw =>
    obtain hx | rfl := execDrw_cases h
    · exact hx.inv hi
    · exact hi.congr rfl rfl rfl rfl
  | addi =>
    obtain hx | rfl := execAddi_cases h
    · exact hx.inv hi
    · exact hi.congr rfl rfl rfl rfl
  | ldm =>
    obtain hx | rfl := execLdm_cases h
    · exact hx.inv hi
    · rw [State.setRegsFrom_eq]
      exact hi.congr rfl rfl rfl rfl
  | cls | ldImm | addImm | mov | or | and | xor | add | sub | shr | subn | shl | rnd | getdt | ldi | font
  | setdt | setst | nop0 | nop8 | nope | nopf =>
    cases h
    exact hi.congr rfl rfl rfl rfl

end

theorem Inv.betweenCycles {s : State} (h : Inv s) : Inv (betweenCycles s) :=
  h.congr (betweenCycles_pc s) (betweenCycles_stack s) (betweenCycles_mem s) (betweenCycles_fault s)

/-- The three things a step can be each keep the invariant. -/
theorem step_inv {s t : State} (hi : Inv s) (h : step s = .next t) : Inv t := by
  obtain ⟨-, rfl⟩ | ⟨-, -, rfl⟩ | ⟨hf, hp, u, hu, rfl⟩ := step_cases h
  · exact hi
  · exact hi.raise ⟨rfl, rfl, rfl⟩
  · have hp : s.pc.toNat + 2 ≤ 0x1000 := hp
    have hadv : s.advance.pc.toNat = s.pc.toNat + 2 := PcWord.toNat_add_two (by omega)
    have hbound : s.advance.pc.toNat ≤ 0x1000 := hadv ▸ hp
    have hia : Inv s.advance := hi.setPc hf (Nat.le_trans hbound (by decide))
    exact (exec_inv hia hf (hadv ▸ Nat.le_add_left 2 _) hbound hu).betweenCycles

/-- After reset the stack and the memory list are empty and no fault is recorded (R33). -/
theorem reset_inv : Inv State.reset where
  pcBound := by decide
  depth := Nat.zero_le _
  returns := by simp [State.reset]
  memWf := ⟨.nil, by simp [State.reset]⟩
  memInSpace := by simp [State.reset]
  faultFits := by simp [State.reset]

/-! ## Independence of the sound timer (R24, spec/60_exceptions.md R166)

An execution started with another sound-timer value takes the same branch and gives the same next state but for the sound
timer. -/

section

variable (b : Byte)

theorem State.setRegsFrom_setST (bytes : List Byte) (s : State) (k : Nat) :
    (s.setST b).setRegsFrom k bytes = (s.setRegsFrom k bytes).setST b := by
  induction bytes generalizing s k with
  | nil => rfl
  | cons c cs ih => exact ih (s.setReg (BitVec.ofNat 4 k) c) (k + 1)

variable {s t : State}

theorem raiseIn_setST {i : Instr} {f : Fault} (h : raiseIn i f s = .next t) :
    raiseIn i f (s.setST b) = .next (t.setST b) := by
  cases h
  rfl

theorem storeAtI_setST {i : Instr} {bytes : List Byte} (h : storeAtI i bytes s = .next t) :
    storeAtI i bytes (s.setST b) = .next (t.setST b) := by
  unfold storeAtI at h ⊢
  rw [State.setST_mem, show (s.setST b).dataBase = s.dataBase from rfl]
  split at h
  · cases h
    rfl
  · exact raiseIn_setST b h

theorem drawRows_setST {i : Instr} {x0 y0 : Nat} {rows : List Byte} (h : drawRows i x0 y0 rows s = .next t) :
    drawRows i x0 y0 rows (s.setST b) = .next (t.setST b) := by
  unfold drawRows at h ⊢
  split at h
  · exact raiseIn_setST b h
  · cases h
    rfl

theorem execRet_setST {x : RegIdx} (h : execRet x s = .next t) : execRet x (s.setST b) = .next (t.setST b) := by
  cases hs : s.stack with
  | nil =>
    rw [execRet_underflow hs] at h
    exact (execRet_underflow (s := s.setST b) hs).trans (raiseIn_setST b h)
  | cons target rest =>
    rw [execRet_pop hs] at h
    cases h
    exact execRet_pop (s := s.setST b) hs

theorem execCall_setST {nnn : Addr12} (h : execCall nnn s = .next t) :
    execCall nnn (s.setST b) = .next (t.setST b) := by
  by_cases hd : s.sp < Config.stackDepth
  · rw [execCall_push hd] at h
    cases h
    exact execCall_push (s := s.setST b) hd
  · rw [execCall_overflow hd] at h
    exact (execCall_overflow (s := s.setST b) hd).trans (raiseIn_setST b h)

theorem execDrw_setST {x y : RegIdx} {n : BitVec 4} (h : execDrw x y n s = .next t) :
    execDrw x y n (s.setST b) = .next (t.setST b) := by
  by_cases hr : n.toNat = 0 ∨ s.dataBase + n.toNat ≤ Config.memSize
  · rw [execDrw_rows hr] at h
    exact (execDrw_rows (s := s.setST b) hr).trans (drawRows_setST b h)
  · rw [execDrw_fault hr] at h
    exact (execDrw_fault (s := s.setST b) hr).trans (raiseIn_setST b h)

theorem execAddi_setST {x : RegIdx} (h : execAddi x s = .next t) : execAddi x (s.setST b) = .next (t.setST b) := by
  by_cases hfit : s.I.toNat + (s.reg x).toNat ≤ 0xFFFF
  · rw [execAddi_ok hfit] at h
    cases h
    exact execAddi_ok (s := s.setST b) hfit
  · rw [execAddi_fault (by omega)] at h
    exact (execAddi_fault (s := s.setST b) (Nat.lt_of_not_le hfit)).trans (raiseIn_setST b h)

theorem execLdm_setST {x : RegIdx} (h : execLdm x s = .next t) : execLdm x (s.setST b) = .next (t.setST b) := by
  by_cases hr : s.dataBase + (x.toNat + 1) ≤ Config.memSize
  · rw [execLdm_ok hr] at h
    cases h
    rw [← State.setRegsFrom_setST]
    exact execLdm_ok (s := s.setST b) hr
  · rw [execLdm_fault (by omega)] at h
    exact (execLdm_fault (s := s.setST b) (Nat.lt_of_not_le hr)).trans (raiseIn_setST b h)

theorem execStm_setST {x : RegIdx} (h : execStm x s = .next t) : execStm x (s.setST b) = .next (t.setST b) := by
  unfold execStm at h ⊢
  rw [State.regBytes_congr (s.setST_v b)]
  exact storeAtI_setST b h

/-- SETST alone writes the sound timer; every other instruction keeps the value it was given. -/
theorem exec_setST {i : Instr} (h : exec i s = .next t) : ∃ c, exec i (s.setST b) = .next (t.setST c) := by
  cases i with
  | ret => exact ⟨b, execRet_setST b h⟩
  | call => exact ⟨b, execCall_setST b h⟩
  | drw => exact ⟨b, execDrw_setST b h⟩
  | addi => exact ⟨b, execAddi_setST b h⟩
  | ldm => exact ⟨b, execLdm_setST b h⟩
  | bcd => exact ⟨b, storeAtI_setST b h⟩
  | stm => exact ⟨b, execStm_setST b h⟩
  | setst x =>
    cases h
    exact ⟨s.reg x, rfl⟩
  | cls | jp | jpv | seImm | sneImm | seReg | sneReg | skp | sknp | waitk | ldi | font | setdt
  | ldImm | addImm | mov | or | and | xor | add | sub | shr | subn | shl | rnd | getdt
  | nop0 | nop8 | nope | nopf =>
    cases h
    exact ⟨b, rfl⟩

/-- The ticks between two cycles carry the sound timer to the sound timer and the events alone (R166). -/
theorem betweenCycles_setST (s : State) :
    ∃ c events, betweenCycles (s.setST b) = { (betweenCycles s).setST c with events := events } := by
  by_cases hf : s.fault = none
  · rw [betweenCycles_running hf, betweenCycles_running (s := s.setST b) hf]
    exact ⟨_, _, rfl⟩
  · rw [betweenCycles_halted hf, betweenCycles_halted (s := s.setST b) hf]
    exact ⟨b, s.events, rfl⟩

end

/-! ## Reset (R33) -/

@[simp] theorem State.rst_reg (s : State) (r : RegIdx) : s.rst.reg r = 0 := Vector.getElem_replicate _

@[simp] theorem State.rst_pixel (s : State) (x y : Nat) : s.rst.fb.pixel x y = false :=
  FrameBuffer.pixel_cleared x y

end Sys2Proof.Machine

namespace Sys2Proof.Claims

open Sys2Proof.Machine

/-- Settles O52: a halted core stays as it is, a fetch fault leaves a record that fits, and an execution from the advanced
`pc` keeps every clause (`exec_inv`). -/
theorem everyStepKeepsTheInvariant : Obligations.EveryStepKeepsTheInvariant := fun _ _ hi h => step_inv hi h

/-- Settles O42, by the frames of the named updates each instruction is built from. -/
theorem instructionsChangeOnlyTheirParts : Obligations.InstructionsChangeOnlyTheirParts :=
  fun _ _ _ h => exec_unchangedBut h

/-- Settles O43: the register writers by what a register reads after their writes, every other instruction by its frame. -/
theorem instructionsWriteOnlyTheirRegisters : Obligations.InstructionsWriteOnlyTheirRegisters :=
  fun _ _ _ h _ hr => exec_reg_of_not_writesReg h hr

/-- Settles O47: the step with the other value is halted, faults in the fetch, or executes the same instruction, exactly
as the given one does. -/
theorem theSoundTimerNeverInfluencesAProgram : Obligations.TheSoundTimerNeverInfluencesAProgram := by
  intro s t b h
  obtain ⟨hf, rfl⟩ | ⟨hf, hp, rfl⟩ | ⟨hf, hp, u, hu, rfl⟩ := step_cases h
  · exact ⟨b, t.events, step_halted (s := t.setST b) hf⟩
  · exact ⟨b, s.events, step_fetch_fault (s := s.setST b) hf hp⟩
  · obtain ⟨c, hc⟩ := exec_setST b hu
    obtain ⟨c', events, hb⟩ := betweenCycles_setST c u
    refine ⟨c', events, (step_running (s := s.setST b) hf hp).trans ?_⟩
    rw [← hb]
    exact congrArg afterCycle hc

/-- Settles O51: `pc` starts at 0x200, and the other clauses speak of what is empty after reset (`reset_inv`). -/
theorem resetMeetsTheInvariant : Obligations.ResetMeetsTheInvariant := reset_inv

/-- Settles O53: the scalar fields are those of `State.reset`, registers and pixels read as 0 everywhere, and an empty
memory list reads as 0x00. -/
theorem resetPutsEveryPieceAtItsValue : Obligations.ResetPutsEveryPieceAtItsValue :=
  fun s => ⟨rfl, rfl, rfl, rfl, rfl, rfl, s.rst_reg, fun _ => rfl, s.rst_pixel, rfl, rfl, rfl⟩

end Sys2Proof.Claims

/-! ## Memory (spec/20_memory.md R41, R43 to R45, R54)

What STM leaves in memory and what a fetch reads there; which bytes a store can change; the opcode placed at `pc`. -/

namespace Sys2Proof.Machine

/-- STM in range (R115). -/
theorem execStm_ok {x : RegIdx} {s : State} (h : s.dataBase + x.toNat < Config.memSize) :
    execStm x s = .next (s.setMem (Memory.writeBytes s.mem s.dataBase (s.regBytes (x.toNat + 1)))) :=
  storeAtI_ok (by rw [State.regBytes_length]; exact h)

/-- A register of the list STM stores is read back at its place from the base (R115). -/
theorem Memory.read_writeBytes_regBytes (m : Memory) (a : Nat) (s : State) {n : Nat} {r : RegIdx} (h : r.toNat < n) :
    Memory.read (Memory.writeBytes m a (s.regBytes n)) (a + r.toNat) = s.reg r := by
  have hin : a ≤ a + r.toNat ∧ a + r.toNat < a + (s.regBytes n).length := by
    rw [State.regBytes_length]
    omega
  rw [Memory.read_writeBytes, if_pos hin, Nat.add_sub_cancel_left, List.getD_eq_getElem?_getD,
    State.regBytes_getElem? s h, BitVec.ofNat_toNat, BitVec.setWidth_eq]
  rfl

/-- Two adjacent registers of the list STM stores make the word fetched at the lower one's place (R44, R115). -/
theorem Memory.fetchWord_writeBytes_regBytes (m : Memory) {a n : Nat} (s : State) {p : PcWord} {r q : RegIdx}
    (hp : p.toNat = a + r.toNat) (hq : q.toNat = r.toNat + 1) (hn : q.toNat < n) (hfit : a + n ≤ Config.memSize) :
    Memory.fetchWord (Memory.writeBytes m a (s.regBytes n)) p = .ok (joinBytes (s.reg r) (s.reg q)) := by
  have hnext : p.toNat + 1 = a + q.toNat := by omega
  rw [Memory.fetchWord_eq, if_pos (by omega), hnext, hp, Memory.read_writeBytes_regBytes m a s (by omega),
    Memory.read_writeBytes_regBytes m a s hn]

/-- A store changes no byte outside its span, whether it completes or faults (R43, R48). -/
theorem storeAtI_read_of_outside {i : Instr} {bytes : List Byte} {s t : State} {a : Nat}
    (h : storeAtI i bytes s = .next t) (ha : ¬(s.dataBase ≤ a ∧ a < s.dataBase + bytes.length)) :
    Memory.read t.mem a = Memory.read s.mem a := by
  obtain hf | ⟨-, rfl⟩ := storeAtI_effect h
  · exact hf.unchangedBut .mem (by simp) a
  · rw [State.setMem_mem, Memory.read_writeBytes, if_neg ha]

/-- BCD and STM keep every byte outside the span they store to; memory is in the frame of every other instruction. -/
theorem exec_read_of_not_stores {i : Instr} {s t : State} {a : Nat} (h : exec i s = .next t) (ha : ¬i.stores s a) :
    Memory.read t.mem a = Memory.read s.mem a := by
  cases i with
  | bcd => exact storeAtI_read_of_outside h ha
  | stm => exact storeAtI_read_of_outside h (by rwa [State.regBytes_length])
  | cls | ret | jp | call | seImm | sneImm | seReg | ldImm | addImm | mov | or | and | xor | add | sub | shr | subn
  | shl | sneReg | ldi | jpv | rnd | drw | skp | sknp | getdt | waitk | setdt | setst | addi | font | ldm
  | nop0 | nop8 | nope | nopf =>
    exact exec_unchangedBut h .mem (by simp [Instr.mayChange]) a

/-! ### An opcode placed at `pc` -/

/-- Placing a word where a fetch can succeed stores its two bytes at `pc`. -/
theorem State.withFetchWord_eq {s : State} (w : Word) (hp : s.pc.toNat + 2 ≤ Config.memSize) :
    s.withFetchWord 16 w.toNat = s.setMem (Memory.writeBytes s.mem s.pc.toNat [highByte w, lowByte w]) := by
  rw [State.withFetchWord, Nat.mod_eq_of_lt w.isLt, BitVec.ofNat_toNat, BitVec.setWidth_eq, storeOpcodeAtPc, if_pos hp]

end Sys2Proof.Machine

namespace Sys2Proof.Claims

open Sys2Proof.Machine

/-- The opcode at an address where a word's two bytes were stored is that word (R44). -/
theorem opcodeAt_writeBytes (s : State) (pc : PcWord) (w : Word) :
    opcodeAt (s.setMem (Memory.writeBytes s.mem pc.toNat [highByte w, lowByte w])) pc = w := by
  simp [opcodeAt, Memory.read_writeBytes]

/-- `step_running` in the terms of the statements. -/
theorem step_opcodeAt {s : State} (hf : s.fault = none) (hp : s.pc.toNat ≤ 0xFFE) :
    step s = afterCycle (exec (decodeWord (opcodeAt s s.pc)) s.advance) :=
  step_running hf (Nat.add_le_add_right hp 2)

/-- Settles O44: a store by what is read outside its span, every other instruction by its frame. -/
theorem instructionsStoreOnlyTheirSpan : Obligations.InstructionsStoreOnlyTheirSpan :=
  fun _ _ _ h _ ha => exec_read_of_not_stores h ha

/-- Settles O26: the step executes STM from the advanced state, what follows the cycle leaves memory alone, and the
fetch reads two adjacent bytes of the stored span. -/
theorem fetchSeesTheBytesJustStored : Obligations.FetchSeesTheBytesJustStored := by
  intro s x hf hp hdec hfit
  have hexec : exec (.stm x) s.advance = _ := execStm_ok (s := s.advance) (Nat.lt_succ_of_le hfit)
  rw [step_opcodeAt hf hp, hdec, hexec]
  refine ⟨_, rfl, fun p r q hpr hqr hqx => ?_⟩
  rw [betweenCycles_mem, State.setMem_mem]
  exact Memory.fetchWord_writeBytes_regBytes s.mem s.advance hpr hqr (Nat.lt_succ_of_le hqx) (Nat.succ_le_succ hfit)

/-- Settles O40: the placed word is the opcode at `pc`, so it is what a step that can fetch executes. -/
theorem stepRunsThePlacedOpcode : Obligations.StepRunsThePlacedOpcode := by
  intro s w hf hp
  rw [State.withFetchWord_eq w (Nat.add_le_add_right hp 2), step_opcodeAt, State.setMem_pc, opcodeAt_writeBytes]
  · exact hf
  · exact hp

end Sys2Proof.Claims

/-! ## The decoder and the encoder (spec/30_encoding.md R62, R65, R66, R69 to R71)

The category picks one of the nested dispatches; a dispatch answers a no-op on the unlisted values; decoding and
encoding are inverse to each other, and the table picks the row the dispatch picks. -/

namespace Sys2Proof

section

variable {w : Word}

/-! ### The dispatch -/

theorem decodeWord_of_cat0 (h : opCat w = 0x0) : decodeWord w = decodeCat0 w := by
  simp [decodeWord, h]

theorem decodeWord_of_cat8 (h : opCat w = 0x8) : decodeWord w = decodeCat8 w := by
  simp [decodeWord, h]

theorem decodeWord_of_catE (h : opCat w = 0xE) : decodeWord w = decodeCatE w := by
  simp [decodeWord, h]

theorem decodeWord_of_catF (h : opCat w = 0xF) : decodeWord w = decodeCatF w := by
  simp [decodeWord, h]

theorem decodeWord_of_unlisted0 (hc : opCat w = 0x0) (hn : unlisted0 (opNN w) = true) :
    decodeWord w = .nop0 (opNNN w) := by
  rw [decodeWord_of_cat0 hc, decodeCat0]
  split <;> simp_all [unlisted0]

theorem decodeWord_of_unlisted8 (hc : opCat w = 0x8) (hn : unlisted8 (opN w) = true) :
    decodeWord w = .nop8 (opX w) (opY w) (opN w) := by
  rw [decodeWord_of_cat8 hc, decodeCat8]
  split <;> simp_all [unlisted8]

theorem decodeWord_of_unlistedE (hc : opCat w = 0xE) (hn : unlistedE (opNN w) = true) :
    decodeWord w = .nope (opX w) (opNN w) := by
  rw [decodeWord_of_catE hc, decodeCatE]
  split <;> simp_all [unlistedE]

theorem decodeWord_of_unlistedF (hc : opCat w = 0xF) (hn : unlistedF (opNN w) = true) :
    decodeWord w = .nopf (opX w) (opNN w) := by
  rw [decodeWord_of_catF hc, decodeCatF]
  split <;> simp_all [unlistedF]

/-! ### Decoding what the encoder gives -/

/-- An instruction that is no no-op decodes back because its category, and in the nested dispatches its listed value,
picks its own branch; a well-formed no-op because its value is unlisted. -/
theorem decodeWord_encode {i : Instr} (h : i.wf = true) : decodeWord (encode i) = i := by
  cases i with
  | jp | call | ldi | jpv | seImm | sneImm | ldImm | addImm | rnd | seReg | sneReg | drw => simp [encode, decodeWord]
  | cls | ret => simp [encode, decodeWord_of_cat0, decodeCat0]
  | mov | or | and | xor | add | sub | shr | subn | shl => simp [encode, decodeWord_of_cat8, decodeCat8]
  | skp | sknp => simp [encode, decodeWord_of_catE, decodeCatE]
  | getdt | waitk | setdt | setst | addi | font | bcd | stm | ldm => simp [encode, decodeWord_of_catF, decodeCatF]
  | nop0 nnn =>
    have hu : unlisted0 (opNN (packAddr 0x0 nnn)) = true := by rwa [opNN_packAddr]
    rw [encode, decodeWord_of_unlisted0 (opCat_packAddr _ _) hu, opNNN_packAddr]
  | nop8 x y n =>
    have hu : unlisted8 (opN (packRR 0x8 x y n)) = true := by rwa [opN_packRR]
    rw [encode, decodeWord_of_unlisted8 (opCat_packRR _ _ _ _) hu, opX_packRR, opY_packRR, opN_packRR]
  | nope x nn =>
    have hu : unlistedE (opNN (packRI 0xE x nn)) = true := by rwa [opNN_packRI]
    rw [encode, decodeWord_of_unlistedE (opCat_packRI _ _ _) hu, opX_packRI, opNN_packRI]
  | nopf x nn =>
    have hu : unlistedF (opNN (packRI 0xF x nn)) = true := by rwa [opNN_packRI]
    rw [encode, decodeWord_of_unlistedF (opCat_packRI _ _ _) hu, opX_packRI, opNN_packRI]

/-! ### Encoding what the decoder gives -/

theorem packAddr_of_fields {c : BitVec 4} (hc : opCat w = c) : packAddr c (opNNN w) = w := by
  rw [← hc, pack_opAddr]

theorem packRI_of_fields {c : BitVec 4} {nn : Byte} (hc : opCat w = c) (hn : opNN w = nn) :
    packRI c (opX w) nn = w := by
  rw [← hc, ← hn, pack_opRI]

theorem packRR_of_fields {c n : BitVec 4} (hc : opCat w = c) (hn : opN w = n) :
    packRR c (opX w) (opY w) n = w := by
  rw [← hc, ← hn, pack_opRR]

theorem encode_decodeCat0 (hc : opCat w = 0x0) : encode (decodeCat0 w) = w := by
  unfold decodeCat0
  split
  case h_3 => exact packAddr_of_fields hc
  all_goals exact packRI_of_fields hc ‹_›

theorem encode_decodeCat8 (hc : opCat w = 0x8) : encode (decodeCat8 w) = w := by
  unfold decodeCat8
  split
  case h_10 => exact packRR_of_fields hc rfl
  all_goals exact packRR_of_fields hc ‹_›

theorem encode_decodeCatE (hc : opCat w = 0xE) : encode (decodeCatE w) = w := by
  unfold decodeCatE
  split
  case h_3 => exact packRI_of_fields hc rfl
  all_goals exact packRI_of_fields hc ‹_›

theorem encode_decodeCatF (hc : opCat w = 0xF) : encode (decodeCatF w) = w := by
  unfold decodeCatF
  split
  case h_10 => exact packRI_of_fields hc rfl
  all_goals exact packRI_of_fields hc ‹_›

variable (w)

/-- Branch `h_1` of the dispatch is category 0, and so on to `h_16`, the category that is none of 0 to E. -/
theorem encode_decodeWord : encode (decodeWord w) = w := by
  unfold decodeWord
  split
  case h_1 hc => exact encode_decodeCat0 hc
  case h_9 hc => exact encode_decodeCat8 hc
  case h_15 hc => exact encode_decodeCatE hc
  case h_16 => exact encode_decodeCatF (by generalize opCat w = c at *; decide +revert)
  case h_2 hc | h_3 hc | h_11 hc | h_12 hc => exact packAddr_of_fields hc
  case h_4 hc | h_5 hc | h_7 hc | h_8 hc | h_13 hc => exact packRI_of_fields hc rfl
  case h_6 hc | h_10 hc | h_14 hc => exact packRR_of_fields hc rfl

/-- In category 8 the spec lists the no-ops; they are the values that are none of the nine instructions (R69, R141). -/
theorem unlisted8_iff_not_listed :
    ∀ n : BitVec 4, unlisted8 n = true ↔ n ∉ [0x0, 0x1, 0x2, 0x3, 0x4, 0x5, 0x6, 0x7, 0xE] := by
  decide

theorem decodeCat0_wf : (decodeCat0 w).wf = true := by
  unfold decodeCat0
  split <;> simp_all [Instr.wf, unlisted0]

theorem decodeCat8_wf : (decodeCat8 w).wf = true := by
  unfold decodeCat8
  split <;> simp_all [Instr.wf, unlisted8_iff_not_listed]

theorem decodeCatE_wf : (decodeCatE w).wf = true := by
  unfold decodeCatE
  split <;> simp_all [Instr.wf, unlistedE]

theorem decodeCatF_wf : (decodeCatF w).wf = true := by
  unfold decodeCatF
  split <;> simp_all [Instr.wf, unlistedF]

theorem decodeWord_wf : (decodeWord w).wf = true := by
  unfold decodeWord
  split
  case h_1 => exact decodeCat0_wf w
  case h_9 => exact decodeCat8_wf w
  case h_15 => exact decodeCatE_wf w
  case h_16 => exact decodeCatF_wf w
  all_goals rfl

end

/-! ### The table -/

/-- The table's first row for an encoding bears the instruction's mnemonic: the law of each constructor, collected. -/
theorem firstRow_encode : ∀ i : Instr, Laws.TableRow.Statement i
  | .cls x => Laws.TableRow.cls x
  | .ret x => Laws.TableRow.ret x
  | .jp nnn => Laws.TableRow.jp nnn
  | .call nnn => Laws.TableRow.call nnn
  | .seImm x nn => Laws.TableRow.seImm x nn
  | .sneImm x nn => Laws.TableRow.sneImm x nn
  | .seReg x y n => Laws.TableRow.seReg x y n
  | .ldImm x nn => Laws.TableRow.ldImm x nn
  | .addImm x nn => Laws.TableRow.addImm x nn
  | .mov x y => Laws.TableRow.mov x y
  | .or x y => Laws.TableRow.or x y
  | .and x y => Laws.TableRow.and x y
  | .xor x y => Laws.TableRow.xor x y
  | .add x y => Laws.TableRow.add x y
  | .sub x y => Laws.TableRow.sub x y
  | .shr x y => Laws.TableRow.shr x y
  | .subn x y => Laws.TableRow.subn x y
  | .shl x y => Laws.TableRow.shl x y
  | .sneReg x y n => Laws.TableRow.sneReg x y n
  | .ldi nnn => Laws.TableRow.ldi nnn
  | .jpv nnn => Laws.TableRow.jpv nnn
  | .rnd x nn => Laws.TableRow.rnd x nn
  | .drw x y n => Laws.TableRow.drw x y n
  | .skp x => Laws.TableRow.skp x
  | .sknp x => Laws.TableRow.sknp x
  | .getdt x => Laws.TableRow.getdt x
  | .waitk x => Laws.TableRow.waitk x
  | .setdt x => Laws.TableRow.setdt x
  | .setst x => Laws.TableRow.setst x
  | .addi x => Laws.TableRow.addi x
  | .font x => Laws.TableRow.font x
  | .bcd x => Laws.TableRow.bcd x
  | .stm x => Laws.TableRow.stm x
  | .ldm x => Laws.TableRow.ldm x
  | .nop0 nnn => Laws.TableRow.nop0 nnn
  | .nop8 x y n => Laws.TableRow.nop8 x y n
  | .nope x nn => Laws.TableRow.nope x nn
  | .nopf x nn => Laws.TableRow.nopf x nn

/-- Two rows whose patterns differ in a bit that both masks examine select no common word (R71). -/
theorem OpcodeRow.not_selects_both {r q : OpcodeRow} (h : r.mask &&& q.mask &&& (r.pattern ^^^ q.pattern) ≠ 0)
    (w : Word) : ¬(r.selects w = true ∧ q.selects w = true) := by
  rintro ⟨hr, hq⟩
  rw [OpcodeRow.selects, beq_iff_eq] at hr hq
  apply h
  rw [← hr, ← hq]
  ext k hk
  simp +contextual

/-- Any two of the 34 rows differ in a bit that both examine. -/
theorem instructionRows_differ :
    instructionRows.Pairwise fun r q => r.mask &&& q.mask &&& (r.pattern ^^^ q.pattern) ≠ 0 := by
  decide

/-! ### The fields and the unlisted values in numbers (R62, R69) -/

theorem opCat_toNat (w : Word) : (opCat w).toNat = w.toNat / 4096 := by
  rw [opCat, BitVec.extractLsb'_toNat, Nat.shiftRight_eq_div_pow]
  exact Nat.mod_eq_of_lt (Nat.div_lt_of_lt_mul w.isLt)

theorem opCat_eq_of_toNat {w : Word} {c : BitVec 4} (h : w.toNat / 4096 = c.toNat) : opCat w = c :=
  BitVec.eq_of_toNat_eq ((opCat_toNat w).trans h)

theorem opN_toNat (w : Word) : (opN w).toNat = w.toNat % 16 := by
  rw [opN, BitVec.extractLsb'_toNat, Nat.shiftRight_zero]

theorem opNN_toNat (w : Word) : (opNN w).toNat = w.toNat % 256 := by
  rw [opNN, BitVec.extractLsb'_toNat, Nat.shiftRight_zero]

theorem unlisted0_iff (nn : Byte) : unlisted0 nn = true ↔ nn.toNat ∉ [0xE0, 0xEE] := by
  simp [unlisted0, ← BitVec.toNat_inj]

theorem unlisted8_iff (n : BitVec 4) :
    unlisted8 n = true ↔ n.toNat ∈ [0x8, 0x9, 0xA, 0xB, 0xC, 0xD, 0xF] := by
  simp [unlisted8, ← BitVec.toNat_inj]

theorem unlistedE_iff (nn : Byte) : unlistedE nn = true ↔ nn.toNat ∉ [0x9E, 0xA1] := by
  simp [unlistedE, ← BitVec.toNat_inj]

theorem unlistedF_iff (nn : Byte) :
    unlistedF nn = true ↔ nn.toNat ∉ [0x07, 0x0A, 0x15, 0x18, 0x1E, 0x29, 0x33, 0x55, 0x65] := by
  simp [unlistedF, ← BitVec.toNat_inj]

end Sys2Proof

namespace Sys2Proof.Claims

open Sys2Proof.Machine

/-- Settles O1, constructor by constructor (`decodeWord_encode`). -/
theorem decodeOfEncodeReturnsTheInstruction : Obligations.DecodeOfEncodeReturnsTheInstruction :=
  fun _ h => decodeWord_encode h

/-- Settles O2, branch by branch of the dispatch: the hypothesis of a branch names the fields the encoder packs. -/
theorem everyWordIsOneWellFormedInstruction : Obligations.EveryWordIsOneWellFormedInstruction :=
  fun w => ⟨decodeWord_wf w, encode_decodeWord w⟩

/-- Settles O3: a word is the encoding of the well-formed instruction it decodes to, and for such an encoding the
table's first row bears the instruction's mnemonic. -/
theorem decoderSelectsTheFirstMatchingRow : Obligations.DecoderSelectsTheFirstMatchingRow := by
  intro w
  have h := firstRow_encode (decodeWord w) (decodeWord_wf w)
  rwa [encode_decodeWord] at h

/-- Settles O4: any two rows examine a common bit on which their patterns differ. -/
theorem instructionRowsAreMutuallyExclusive : Obligations.InstructionRowsAreMutuallyExclusive :=
  ⟨rfl, instructionRows_differ.imp fun h => OpcodeRow.not_selects_both h⟩

/-- Settles O5, by running the decoder. -/
theorem wordsWrittenOutFromThePatternsDecode : Obligations.WordsWrittenOutFromThePatternsDecode := by
  unfold Obligations.WordsWrittenOutFromThePatternsDecode
  decide

/-- Settles O6: each of the four sets, given in numbers, is where the dispatch answers its no-op. -/
theorem unlistedWordsExecuteAsNoops : Obligations.UnlistedWordsExecuteAsNoops := by
  rintro w s (⟨hc, hn⟩ | ⟨hc, hn⟩ | ⟨hc, hn⟩ | ⟨hc, hn⟩)
  · rw [← opNN_toNat, ← unlisted0_iff] at hn
    rw [decodeWord_of_unlisted0 (opCat_eq_of_toNat hc) hn]
    rfl
  · rw [← opN_toNat, ← unlisted8_iff] at hn
    rw [decodeWord_of_unlisted8 (opCat_eq_of_toNat hc) hn]
    rfl
  · rw [← opNN_toNat, ← unlistedE_iff] at hn
    rw [decodeWord_of_unlistedE (opCat_eq_of_toNat hc) hn]
    rfl
  · rw [← opNN_toNat, ← unlistedF_iff] at hn
    rw [decodeWord_of_unlistedF (opCat_eq_of_toNat hc) hn]
    rfl

end Sys2Proof.Claims

/-! ## Every execution and every step answers a next state (spec/30_encoding.md R69, R70, spec/60_exceptions.md R156,
R157)

A fault is the next state that holds its record. -/

namespace Sys2Proof.Machine

theorem storeAtI_answers (i : Instr) (bytes : List Byte) (s : State) : ∃ t, storeAtI i bytes s = .next t := by
  unfold storeAtI
  split
  · exact ⟨_, rfl⟩
  · exact ⟨_, rfl⟩

theorem drawRows_answers (i : Instr) (x0 y0 : Nat) (rows : List Byte) (s : State) :
    ∃ t, drawRows i x0 y0 rows s = .next t := by
  unfold drawRows
  split
  · exact ⟨_, rfl⟩
  · exact ⟨_, rfl⟩

theorem execRet_answers (x : RegIdx) (s : State) : ∃ t, execRet x s = .next t := by
  cases hs : s.stack with
  | nil => exact ⟨_, execRet_underflow hs⟩
  | cons target rest => exact ⟨_, execRet_pop hs⟩

theorem execCall_answers (nnn : Addr12) (s : State) : ∃ t, execCall nnn s = .next t := by
  by_cases hd : s.sp < Config.stackDepth
  · exact ⟨_, execCall_push hd⟩
  · exact ⟨_, execCall_overflow hd⟩

theorem execDrw_answers (x y : RegIdx) (n : BitVec 4) (s : State) : ∃ t, execDrw x y n s = .next t := by
  by_cases hr : n.toNat = 0 ∨ s.dataBase + n.toNat ≤ Config.memSize
  · rw [execDrw_rows hr]
    exact drawRows_answers _ _ _ _ _
  · exact ⟨_, execDrw_fault hr⟩

theorem execAddi_answers (x : RegIdx) (s : State) : ∃ t, execAddi x s = .next t := by
  by_cases hfit : s.I.toNat + (s.reg x).toNat ≤ 0xFFFF
  · exact ⟨_, execAddi_ok hfit⟩
  · exact ⟨_, execAddi_fault (Nat.lt_of_not_le hfit)⟩

theorem execLdm_answers (x : RegIdx) (s : State) : ∃ t, execLdm x s = .next t := by
  by_cases hr : s.dataBase + (x.toNat + 1) ≤ Config.memSize
  · exact ⟨_, execLdm_ok hr⟩
  · exact ⟨_, execLdm_fault (Nat.lt_of_not_le hr)⟩

/-- The instructions that can fault answer by their own laws; every other one answers the state under updates. -/
theorem exec_answers (i : Instr) (s : State) : ∃ t, exec i s = .next t := by
  cases i with
  | ret => exact execRet_answers _ s
  | call => exact execCall_answers _ s
  | drw => exact execDrw_answers _ _ _ s
  | addi => exact execAddi_answers _ s
  | bcd | stm => exact storeAtI_answers _ _ s
  | ldm => exact execLdm_answers _ s
  | cls | jp | jpv | seImm | sneImm | seReg | sneReg | skp | sknp | waitk | ldi | font | setdt | setst
  | ldImm | addImm | mov | or | and | xor | add | sub | shr | subn | shl | rnd | getdt
  | nop0 | nop8 | nope | nopf => exact ⟨_, rfl⟩

theorem step_answers (s : State) : ∃ t, step s = .next t := by
  by_cases hf : s.fault = none
  · by_cases hp : s.pc.toNat + 2 ≤ Config.memSize
    · rw [step_running hf hp]
      exact (exec_answers _ _).imp' betweenCycles fun _ hu => congrArg afterCycle hu
    · exact ⟨_, step_fetch_fault hf hp⟩
  · exact ⟨s, step_halted hf⟩

/-! ### What follows an execution (R167, R168) -/

/-- No instruction spends or supplies inputs (R29, R30). -/
theorem exec_inputs {i : Instr} {s t : State} (h : exec i s = .next t) : Same .inputs s t :=
  exec_unchangedBut h .inputs (by cases i <;> simp [Instr.mayChange])

theorem State.inputs_congr {s t : State} (h : Same .inputs s t) : t.inputs = s.inputs := by
  obtain ⟨hscript, hcycles⟩ := h
  rw [State.inputs, State.inputs, hscript, hcycles]

theorem runTicks_unchangedBut (j k : Nat) (s : State) : UnchangedBut [.DT, .ST, .events] s (runTicks j k s) := by
  intro p hp
  cases p <;> simp_all [Same]

theorem spendInputs_unchangedBut (s : State) : UnchangedBut [.inputs] s (spendInputs s) := by
  intro p hp
  cases p <;> simp_all [Same]

theorem betweenCycles_unchangedBut (s : State) : UnchangedBut [.DT, .ST, .events, .inputs] s (betweenCycles s) := by
  by_cases hf : s.fault = none
  · rw [betweenCycles_running hf]
    exact (runTicks_unchangedBut _ _ s).trans (spendInputs_unchangedBut _)
  · rw [betweenCycles_halted hf]
    exact UnchangedBut.refl _ s

end Sys2Proof.Machine

namespace Sys2Proof.Claims

open Sys2Proof.Machine

/-- Settles O41: a halted core and a failed fetch answer at once, and every execution answers (`exec_answers`). -/
theorem everyStepAnswersANextState : Obligations.EveryStepAnswersANextState := step_answers

/-- Settles O39: the step is the execution from the advanced state and then what follows a cycle, with the tick counts
of the state stepped from, since no execution touches the inputs. -/
theorem stepRunsTheDecodedInstruction : Obligations.StepRunsTheDecodedInstruction := by
  intro s t hf hp ht
  have hi : Same .inputs s t := ((s.setPc_unchangedBut _) .inputs (by simp)).trans (exec_inputs ht)
  have hstep : step s = .next (betweenCycles t) := (step_opcodeAt hf hp).trans (congrArg afterCycle ht)
  refine ⟨betweenCycles t, hstep, betweenCycles_halted, fun hft => ?_⟩
  have hframe := betweenCycles_unchangedBut t
  rw [betweenCycles_running hft, State.inputs_congr hi] at hframe ⊢
  refine ⟨countDownBy_toNat _ _, countDownBy_toNat _ _, ?_, ?_, ?_, hframe⟩
  · rw [spendInputs_events, runTicks_events, beepsBy_eq]
  · exact congrArg List.tail hi.1
  · exact congrArg (· + 1) hi.2

end Sys2Proof.Claims

/-! ## Control transfer (spec/40_control_transfer.md R80 to R87)

The frames of the updates RET, CALL and the skips make, and what their `pc` is in the terms of the rules. -/

namespace Sys2Proof.Machine

theorem State.setStack_setPc_unchangedBut (s : State) (l : List PcWord) (w : PcWord) :
    UnchangedBut [.pc, .stack] s ((s.setStack l).setPc w) :=
  ((s.setStack_unchangedBut l).trans (State.setPc_unchangedBut _ w)).mono (by simp)

theorem State.skipIf_unchangedBut (s : State) (c : Bool) : UnchangedBut [.pc] s (s.skipIf c) :=
  s.setPc_unchangedBut _

/-- A skip on equality (R84, R86). -/
theorem State.skipIf_beq_pc (s : State) (a b : Byte) :
    (s.skipIf (a == b)).pc = if a = b then s.pc + 2 else s.pc := by
  simp

/-- A skip on inequality (R85, R87). -/
theorem State.skipIf_bne_pc (s : State) (a b : Byte) :
    (s.skipIf (a != b)).pc = if a = b then s.pc else s.pc + 2 := by
  simp

theorem State.jumpOffset_legacy {s : State} (h : s.build.jumpMode = .legacy) (nnn : Addr12) :
    s.jumpOffset nnn = s.reg 0 := by
  rw [State.jumpOffset, h]

/-- The top nibble of `nnn` is its quotient by 256. -/
theorem State.jumpOffset_modern {s : State} (h : s.build.jumpMode = .modern) (nnn : Addr12) :
    s.jumpOffset nnn = s.reg (BitVec.ofNat 4 (nnn.toNat / 256)) := by
  rw [State.jumpOffset, h, BitVec.extractLsb', Nat.shiftRight_eq_div_pow]

end Sys2Proof.Machine

namespace Sys2Proof.Claims

open Sys2Proof.Machine

/-- A fault of the execute phase answers the state with its record and nothing else changed (R156). -/
theorem raiseIn_faultIn (i : Instr) (f : Fault) (s : State) :
    ∃ t, raiseIn i f s = .next t ∧ t.fault = faultIn i f s ∧ UnchangedBut [.fault] s t :=
  ⟨_, rfl, rfl, s.raise_unchangedBut _ _ _⟩

/-- Settles O8, by the two laws of RET: a stack that holds something and an empty one. -/
theorem returnPopsTheStackOrUnderflows : Obligations.ReturnPopsTheStackOrUnderflows := by
  intro x s
  constructor
  · intro a rest hs
    exact ⟨_, execRet_pop hs, rfl, rfl, s.setStack_setPc_unchangedBut rest a⟩
  · intro hs
    obtain ⟨t, ht, hrest⟩ := raiseIn_faultIn (.ret x) .stackUnderflow s
    exact ⟨t, (execRet_underflow hs).trans ht, hrest⟩

/-- Settles O9: both jumps load `pc` alone, and the sum of JPV does not wrap (`jpv_target_toNat`). -/
theorem jumpsLoadTheProgramCounter : Obligations.JumpsLoadTheProgramCounter := by
  intro nnn s
  refine ⟨⟨_, rfl, zextPc_toNat nnn, s.setPc_unchangedBut _⟩, ⟨_, rfl, s.setPc_unchangedBut _, ?_, ?_⟩⟩
  · intro hm
    rw [State.setPc_pc, jpv_target_toNat, State.jumpOffset_legacy hm]
  · intro hm
    rw [State.setPc_pc, jpv_target_toNat, State.jumpOffset_modern hm]

/-- Settles O10, by the two laws of CALL: below the depth limit and at it. -/
theorem callPushesTheReturnAddressOrOverflows : Obligations.CallPushesTheReturnAddressOrOverflows := by
  intro nnn s
  constructor
  · intro hd
    exact ⟨_, execCall_push hd, zextPc_toNat nnn, rfl, s.setStack_setPc_unchangedBut _ _⟩
  · intro hd
    obtain ⟨t, ht, hrest⟩ := raiseIn_faultIn (.call nnn) (.stackOverflow s.pc) s
    exact ⟨t, (execCall_overflow (Nat.not_lt.mpr hd)).trans ht, hrest⟩

/-- Settles O11: the call leaves its `pc` on top of its stack (O10), and the return takes it from there (O8). -/
theorem callThenReturnRestoresTheProgramCounter : Obligations.CallThenReturnRestoresTheProgramCounter := by
  intro nnn x s t u hd hcall hu
  obtain ⟨t', ht', -, hpush, -⟩ := (callPushesTheReturnAddressOrOverflows nnn s).1 hd
  obtain rfl : t = t' := Host.Outcome.next.inj (hcall.symm.trans ht')
  obtain ⟨w, hw, hpc, hstack, -⟩ := (returnPopsTheStackOrUnderflows x u).1 s.pc s.stack (hu.trans hpush)
  exact ⟨w, hw, hpc, hstack⟩

/-- Settles O12: each of the four is a skip on one equality or inequality. -/
theorem skipsCompareRegistersAndImmediates : Obligations.SkipsCompareRegistersAndImmediates := by
  intro x y _n nn s
  refine ⟨⟨_, rfl, ?seImm, ?_⟩, ⟨_, rfl, ?sneImm, ?_⟩, ⟨_, rfl, ?seReg, ?_⟩, ⟨_, rfl, ?sneReg, ?_⟩⟩
  case seImm => exact s.skipIf_beq_pc (s.reg x) nn
  case sneImm => exact s.skipIf_bne_pc (s.reg x) nn
  case seReg => exact s.skipIf_beq_pc (s.reg x) (s.reg y)
  case sneReg => exact s.skipIf_bne_pc (s.reg x) (s.reg y)
  all_goals exact s.skipIf_unchangedBut _

end Sys2Proof.Claims

/-! ## Loads, arithmetic, logic, shifts (spec/41_alu.md R90 to R103)

The results and the flags as numbers, then what a register write and the two write orders of R90 do to the whole state. -/

namespace Sys2Proof.Machine

theorem Byte.toNat_sub (a b : Byte) : (a - b).toNat = (a.toNat + 256 - b.toNat) % 256 := by
  have hb : b.toNat < 256 := b.isLt
  have hsum : 2 ^ 8 - b.toNat + a.toNat = a.toNat + 256 - b.toNat := by omega
  rw [BitVec.toNat_sub, hsum]

theorem Byte.toNat_ushiftRight_one (b : Byte) : (b >>> 1).toNat = b.toNat / 2 := by
  rw [BitVec.toNat_ushiftRight, Nat.shiftRight_one]

theorem Byte.toNat_shiftLeft_one (b : Byte) : (b <<< 1).toNat = b.toNat * 2 % 256 := by
  rw [BitVec.toNat_shiftLeft, Nat.shiftLeft_eq, Nat.pow_one]

/-- The flag of a condition that is given by a decision (R12). -/
theorem flagByte_decide_toNat (p : Prop) [Decidable p] : (flagByte (decide p)).toNat = if p then 1 else 0 := by
  simp

theorem addFlag_toNat (a b : Byte) : (addFlag a b).toNat = if 255 ≤ a.toNat + b.toNat then 1 else 0 :=
  flagByte_decide_toNat _

theorem noBorrowFlag_toNat (minuend subtrahend : Byte) :
    (noBorrowFlag minuend subtrahend).toNat = if subtrahend.toNat ≤ minuend.toNat then 1 else 0 :=
  flagByte_decide_toNat _

/-- The flag of bit `k`, by place value. -/
theorem flagByte_getLsbD_toNat (b : Byte) (k : Nat) : (flagByte (b.getLsbD k)).toNat = b.toNat / 2 ^ k % 2 := by
  rw [flagByte_toNat, BitVec.getLsbD, Nat.testBit_eq_decide_div_mod_eq]
  rcases Nat.mod_two_eq_zero_or_one (b.toNat / 2 ^ k) with h | h <;> simp [h]

/-- Bit 0 is the parity (R99). -/
theorem shrFlag_toNat (src : Byte) : (shrFlag src).toNat = src.toNat % 2 := by
  rw [shrFlag, flagByte_getLsbD_toNat, Nat.pow_zero, Nat.div_one]

/-- Bit 7 is the top bit (R101). -/
theorem shlFlag_toNat (src : Byte) : (shlFlag src).toNat = src.toNat / 128 := by
  have hsrc : src.toNat / 128 < 2 := Nat.div_lt_of_lt_mul src.isLt
  rw [shlFlag, flagByte_getLsbD_toNat]
  exact Nat.mod_eq_of_lt hsrc

theorem State.shiftSource_eq (s : State) (x y : RegIdx) :
    s.shiftSource x y = if s.build.shiftMode = .modern then s.reg x else s.reg y := by
  unfold State.shiftSource
  cases s.build.shiftMode with
  | modern => rfl
  | legacy => rfl

section

variable (s : State) (x : RegIdx)

/-- Everything a register write does: its own value, the other registers, the other parts (R11). -/
theorem State.setReg_effect (b : Byte) :
    (s.setReg x b).reg x = b ∧ (∀ r, r ≠ x → (s.setReg x b).reg r = s.reg r) ∧
      UnchangedBut [.regs] s (s.setReg x b) :=
  ⟨s.reg_setReg_same x b, fun _ hr => s.reg_setReg_ne b hr, s.setReg_unchangedBut x b⟩

variable {b f : Byte} {m n : Nat} (hb : b.toNat = n) (hf : f.toNat = m)

include hb hf

/-- Everything ADD's write order does, the result and the flag given as numbers: the flag stands (R90). -/
theorem State.resultThenFlag_effect :
    (x ≠ vF → ((s.resultThenFlag x b f).reg x).toNat = n) ∧ ((s.resultThenFlag x b f).reg vF).toNat = m ∧
      (∀ r, r ≠ x → r ≠ vF → (s.resultThenFlag x b f).reg r = s.reg r) ∧
      UnchangedBut [.regs] s (s.resultThenFlag x b f) := by
  refine ⟨fun hx => ?_, ?_, fun r hr hrF => ?_, s.resultThenFlag_unchangedBut x b f⟩
  · rw [State.reg_resultThenFlag, if_neg hx, if_pos rfl, hb]
  · rw [State.reg_resultThenFlag, if_pos rfl, hf]
  · rw [State.reg_resultThenFlag, if_neg hrF, if_neg hr]

/-- Everything the other write order does, the result and the flag given as numbers: the result stands (R90). -/
theorem State.flagThenResult_effect :
    ((s.flagThenResult x b f).reg x).toNat = n ∧ (x ≠ vF → ((s.flagThenResult x b f).reg vF).toNat = m) ∧
      (∀ r, r ≠ x → r ≠ vF → (s.flagThenResult x b f).reg r = s.reg r) ∧
      UnchangedBut [.regs] s (s.flagThenResult x b f) := by
  refine ⟨?_, fun hx => ?_, fun r hr hrF => ?_, s.flagThenResult_unchangedBut x b f⟩
  · rw [State.reg_flagThenResult, if_pos rfl, hb]
  · rw [State.reg_flagThenResult, if_neg hx.symm, if_pos rfl, hf]
  · rw [State.reg_flagThenResult, if_neg hr, if_neg hrF]

end

/-- A repeated execution goes on from the state its first one answers. -/
theorem execTimes_succ {i : Instr} {s t : State} (h : exec i s = .next t) (k : Nat) :
    execTimes i (k + 1) s = execTimes i k t := by
  rw [execTimes, h]

end Sys2Proof.Machine

namespace Sys2Proof.Claims

open Sys2Proof.Machine

/-- Settles O13: each of the four is one register write. -/
theorem loadsWriteOnlyTheDestination : Obligations.LoadsWriteOnlyTheDestination :=
  fun x y nn s => ⟨⟨_, rfl, s.setReg_effect x nn⟩, ⟨_, rfl, s.setReg_effect x (s.reg y)⟩,
    ⟨_, rfl, s.setReg_effect x (s.rnd &&& nn)⟩, ⟨_, rfl, s.setReg_effect x s.DT⟩⟩

/-- Settles O14: one register write, of a sum of bytes. -/
theorem addImmediateWrapsAndWritesNoFlag : Obligations.AddImmediateWrapsAndWritesNoFlag := by
  intro x nn s
  obtain ⟨hx, hrest⟩ := s.setReg_effect x (s.reg x + nn)
  exact ⟨_, rfl, by rw [hx, BitVec.toNat_add], hrest⟩

/-- Settles O15, by induction on the number of executions, with O14 for the first of them. -/
theorem addImmediateRepeatedAddsTheMultiple : Obligations.AddImmediateRepeatedAddsTheMultiple := by
  intro k x nn s
  induction k generalizing s with
  | zero =>
    have hs : (s.reg x).toNat = ((s.reg x).toNat + 0 * nn.toNat) % 256 := by
      rw [Nat.zero_mul, Nat.add_zero, Nat.mod_eq_of_lt (s.reg x).isLt]
    exact ⟨s, rfl, hs, fun _ _ => rfl, UnchangedBut.refl _ s⟩
  | succ k ih =>
    obtain ⟨u, hu, hux, hur, huf⟩ := addImmediateWrapsAndWritesNoFlag x nn s
    obtain ⟨t, ht, htx, htr, htf⟩ := ih u
    refine ⟨t, (execTimes_succ hu k).trans ht, ?_, fun r hr => (htr r hr).trans (hur r hr), fun p hp =>
      (huf p hp).trans (htf p hp)⟩
    rw [htx, hux, Nat.mod_add_mod, Nat.succ_mul, Nat.add_assoc, Nat.add_comm nn.toNat]

/-- Settles O16: each of the three is one register write, and the operation on bytes reads bit by bit. -/
theorem logicWorksBitByBit : Obligations.LogicWorksBitByBit := by
  intro x y s
  refine ⟨?or, ?and, ?xor⟩
  case or =>
    obtain ⟨hx, hrest⟩ := s.setReg_effect x (s.reg x ||| s.reg y)
    exact ⟨_, rfl, fun k => by rw [hx, BitVec.getLsbD_or], hrest⟩
  case and =>
    obtain ⟨hx, hrest⟩ := s.setReg_effect x (s.reg x &&& s.reg y)
    exact ⟨_, rfl, fun k => by rw [hx, BitVec.getLsbD_and], hrest⟩
  case xor =>
    obtain ⟨hx, hrest⟩ := s.setReg_effect x (s.reg x ^^^ s.reg y)
    exact ⟨_, rfl, fun k => by rw [hx, BitVec.getLsbD_xor], hrest⟩

/-- Settles O17: the sum, then the threshold flag. -/
theorem addWritesTheSumAndTheThresholdFlag : Obligations.AddWritesTheSumAndTheThresholdFlag :=
  fun x _ s => ⟨_, rfl, s.resultThenFlag_effect x (BitVec.toNat_add _ _) (addFlag_toNat _ _)⟩

/-- Settles O18: the flag, then the difference, with the operands exchanged for SUBN. -/
theorem subtractionsWriteTheDifferenceAndNoBorrow : Obligations.SubtractionsWriteTheDifferenceAndNoBorrow :=
  fun x _ s => ⟨⟨_, rfl, s.flagThenResult_effect x (Byte.toNat_sub _ _) (noBorrowFlag_toNat _ _)⟩,
    ⟨_, rfl, s.flagThenResult_effect x (Byte.toNat_sub _ _) (noBorrowFlag_toNat _ _)⟩⟩

/-- Settles O19: the flag, then the shifted value, both of the mode's source. -/
theorem shiftsWriteTheShiftedValueAndTheBitOut : Obligations.ShiftsWriteTheShiftedValueAndTheBitOut := by
  intro x y s src hsrc
  obtain rfl : src = s.shiftSource x y := hsrc.trans (s.shiftSource_eq x y).symm
  exact ⟨⟨_, rfl, s.flagThenResult_effect x (Byte.toNat_ushiftRight_one _) (shrFlag_toNat _)⟩,
    ⟨_, rfl, s.flagThenResult_effect x (Byte.toNat_shiftLeft_one _) (shlFlag_toNat _)⟩⟩

end Sys2Proof.Claims

/-! ## The index register and memory (spec/42_index_memory.md R110 to R116)

What a stored or a loaded span holds, place by place; a completed instruction by what its span holds and its frame, a
faulting one by the one law of a raise. -/

namespace Sys2Proof.Machine

/-- Everything ADDI's two writes do where the sum fits: `I`, the flag, the other registers, the other parts (R111). -/
theorem State.setI_setReg_indexFlag_effect {s t : State} {n : Nat} (hn : n ≤ 0xFFFF)
    (ht : t = (s.setI (BitVec.ofNat Config.iWidth n)).setReg vF (indexFlag n)) :
    t.I.toNat = n ∧ (t.reg vF).toNat = (if 0x1000 < n then 1 else 0) ∧ (∀ r, r ≠ vF → t.reg r = s.reg r) ∧
      UnchangedBut [.I, .regs] s t := by
  subst ht
  refine ⟨index_ofNat_toNat hn, ?_, fun r hr => State.reg_setReg_ne _ _ hr,
    (s.setI_unchangedBut _).trans (State.setReg_unchangedBut _ vF _)⟩
  rw [State.reg_setReg_same]
  exact flagByte_decide_toNat _

/-- A byte of a stored list is read back at its place from the base (R52). -/
theorem Memory.read_writeBytes_of_getElem? {bytes : List Byte} {k : Nat} {b : Byte} (m : Memory) (a : Nat)
    (h : bytes[k]? = some b) : Memory.read (Memory.writeBytes m a bytes) (a + k) = b := by
  have hk : k < bytes.length := (List.getElem?_eq_some_iff.mp h).1
  rw [Memory.read_writeBytes, if_pos (by omega), Nat.add_sub_cancel_left, List.getD_eq_getElem?_getD, h]
  rfl

/-- What a store of the three digits leaves at the base and the two places above it: each digit fits a byte (R114). -/
theorem Memory.read_writeBytes_bcdDigits (m : Memory) (a : Nat) (v : Byte) :
    (Memory.read (Memory.writeBytes m a (bcdDigits v)) a).toNat = v.toNat / 100 ∧
      (Memory.read (Memory.writeBytes m a (bcdDigits v)) (a + 1)).toNat = v.toNat / 10 % 10 ∧
      (Memory.read (Memory.writeBytes m a (bcdDigits v)) (a + 2)).toNat = v.toNat % 10 := by
  have hv : v.toNat < 256 := v.isLt
  have read_digit {k d : Nat} (hk : (bcdDigits v)[k]? = some (BitVec.ofNat 8 d)) (hd : d < 256) :
      (Memory.read (Memory.writeBytes m a (bcdDigits v)) (a + k)).toNat = d := by
    rw [Memory.read_writeBytes_of_getElem? m a hk]
    exact Nat.mod_eq_of_lt hd
  exact ⟨read_digit (k := 0) rfl (by omega), read_digit (k := 1) rfl (by omega), read_digit (k := 2) rfl (by omega)⟩

/-- A register of a span loaded from `V[0]` up holds the byte at its place from the base (R116). -/
theorem State.reg_setRegsFrom_readSpan (s : State) (m : Memory) (a : Nat) {x r : RegIdx} (h : r.toNat ≤ x.toNat) :
    (s.setRegsFrom 0 ((List.range' a (x.toNat + 1)).map (Memory.read m))).reg r = Memory.read m (a + r.toNat) := by
  have hx : x.toNat < 16 := x.isLt
  have hr : r.toNat < x.toNat + 1 := Nat.lt_succ_of_le h
  have hlen : ((List.range' a (x.toNat + 1)).map (Memory.read m)).length = x.toNat + 1 := by simp
  rw [State.reg_setRegsFrom _ _ _ _ (by omega), if_pos (by omega)]
  simp [hr]

end Sys2Proof.Machine

namespace Sys2Proof.Claims

open Sys2Proof.Machine

/-- A store from `I` that is not in range answers its fault and stores nothing (R48, R152). -/
theorem storeAtI_faultIn (i : Instr) {bytes : List Byte} {s : State} (hn : bytes ≠ [])
    (h : 0x1000 < s.dataBase + bytes.length) :
    ∃ t, storeAtI i bytes s = .next t ∧ t.fault = faultIn i (.memoryBounds (max s.dataBase 0x1000) .write) s ∧
      UnchangedBut [.fault] s t := by
  rw [storeAtI_fault hn h]
  exact raiseIn_faultIn i _ s

/-- Settles O20: both are one write of `I`. -/
theorem indexLoadsWriteTheIndexAlone : Obligations.IndexLoadsWriteTheIndexAlone :=
  fun nnn x s => ⟨⟨_, rfl, zextIndex_toNat nnn, s.setI_unchangedBut _⟩,
    ⟨_, rfl, glyphAddress_toNat (s.reg x), s.setI_unchangedBut _⟩⟩

/-- Settles O21, by the two laws of ADDI: a sum that fits `I` and one that does not. -/
theorem addToIndexSetsTheFlagOrOverflows : Obligations.AddToIndexSetsTheFlagOrOverflows := by
  rintro x s sum rfl
  constructor
  · intro hfit
    exact ⟨_, execAddi_ok hfit, State.setI_setReg_indexFlag_effect hfit rfl⟩
  · intro hover
    obtain ⟨t, ht, hrest⟩ := raiseIn_faultIn (.addi x) (.indexOverflow (s.I.toNat + (s.reg x).toNat)) s
    exact ⟨t, (execAddi_fault hover).trans ht, hrest⟩

/-- Settles O22: a store of the three digits, in range or not. -/
theorem bcdStoresThreeDigitsOrNothing : Obligations.BcdStoresThreeDigitsOrNothing := by
  intro x s
  constructor
  · intro hfit
    have hexec : exec (.bcd x) s = .next (s.setMem (Memory.writeBytes s.mem s.dataBase (bcdDigits (s.reg x)))) :=
      storeAtI_ok (Nat.add_le_add_right hfit 3)
    obtain ⟨hundreds, tens, ones⟩ := Memory.read_writeBytes_bcdDigits s.mem s.dataBase (s.reg x)
    exact ⟨_, hexec, hundreds, tens, ones, fun a ha => exec_read_of_not_stores hexec ha, s.setMem_unchangedBut _⟩
  · intro hover
    exact storeAtI_faultIn (.bcd x) (List.cons_ne_nil _ _) (Nat.add_lt_add_right hover 3)

/-- Settles O23: a store of the register list, in range or not. -/
theorem storeRegistersWritesTheSpanOrNothing : Obligations.StoreRegistersWritesTheSpanOrNothing := by
  intro x s
  constructor
  · intro hfit
    have hexec : exec (.stm x) s = _ := execStm_ok (Nat.lt_succ_of_le hfit)
    exact ⟨_, hexec, fun r hr => Memory.read_writeBytes_regBytes s.mem s.dataBase s (Nat.lt_succ_of_le hr),
      fun a ha => exec_read_of_not_stores hexec ha, s.setMem_unchangedBut _⟩
  · intro hover
    have hlen : (s.regBytes (x.toNat + 1)).length = x.toNat + 1 := s.regBytes_length _
    exact storeAtI_faultIn (.stm x) (List.ne_nil_of_length_eq_add_one hlen) (by omega)

/-- Settles O24, by the two laws of LDM: a span in range and one that is not. -/
theorem loadRegistersReadsTheSpanOrNothing : Obligations.LoadRegistersReadsTheSpanOrNothing := by
  intro x s
  constructor
  · intro hfit
    have hexec : execLdm x s = _ := execLdm_ok (Nat.succ_le_succ hfit)
    exact ⟨_, hexec, fun r hr => s.reg_setRegsFrom_readSpan s.mem s.dataBase hr,
      fun r hr => execLdm_reg_of_lt hexec hr, s.setRegsFrom_unchangedBut _ _⟩
  · intro hover
    obtain ⟨t, ht, hrest⟩ := raiseIn_faultIn (.ldm x) (.memoryBounds (max s.dataBase 0x1000) .read) s
    exact ⟨t, (execLdm_fault (Nat.succ_lt_succ hover)).trans ht, hrest⟩

/-- Settles O25: STM leaves the registers in its span and `I` alone (O23), so LDM reads the same span (O24). -/
theorem storeThenLoadRestoresTheRegisters : Obligations.StoreThenLoadRestoresTheRegisters := by
  intro x s t u hfit hstm hmem hI
  obtain ⟨t', ht', hstored, -, hframe⟩ := (storeRegistersWritesTheSpanOrNothing x s).1 hfit
  obtain rfl : t = t' := Host.Outcome.next.inj (hstm.symm.trans ht')
  have hbase : u.dataBase = s.dataBase := congrArg BitVec.toNat (hI.trans (hframe .I (by decide)))
  obtain ⟨w, hw, hloaded, -⟩ := (loadRegistersReadsTheSpanOrNothing x u).1 (hbase ▸ hfit)
  refine ⟨w, hw, fun r hr => ?_⟩
  calc w.reg r = Memory.read u.mem (u.dataBase + r.toNat) := hloaded r hr
    _ = Memory.read t.mem (s.dataBase + r.toNat) := by rw [hmem, hbase]
    _ = s.reg r := hstored r hr

end Sys2Proof.Claims

/-! ## The display (spec/43_display.md R120 to R126)

A buffer is what its pixels of the grid read as, and a flip is an exclusive or of one of them; DRW by the pixels of the
sprite it draws; then what a frame buffer that is replaced does to a step. -/

namespace Sys2Proof.Machine

/-! ### Flips -/

theorem FrameBuffer.pixel_of_lt (f : FrameBuffer) (x : Nat) {y : Nat} (hy : y < Config.displayH) :
    f.pixel x y = f[y].getLsbD x := by
  rw [FrameBuffer.pixel, dif_pos hy]

/-- Two buffers that agree on the grid are the same (R26). -/
theorem FrameBuffer.ext_pixel {f g : FrameBuffer}
    (h : ∀ x y, x < Config.displayW → y < Config.displayH → f.pixel x y = g.pixel x y) : f = g := by
  refine Vector.ext fun y hy => BitVec.eq_of_getLsbD_eq fun x hx => ?_
  rw [← f.pixel_of_lt x hy, ← g.pixel_of_lt x hy, h x y hx hy]

theorem offGrid_eq_false_iff (x y : Nat) : offGrid (x, y) = false ↔ x < Config.displayW ∧ y < Config.displayH := by
  simp [offGrid]

/-- There is no pixel off the grid (R26). -/
theorem FrameBuffer.pixel_of_offGrid (f : FrameBuffer) {x y : Nat} (h : offGrid (x, y) = true) :
    f.pixel x y = false := by
  by_cases hy : y < Config.displayH
  · have hx : Config.displayW ≤ x := by simpa [offGrid, Nat.not_le.mpr hy] using h
    rw [f.pixel_of_lt x hy, BitVec.getLsbD_of_ge _ _ hx]
  · rw [FrameBuffer.pixel, dif_neg hy]

theorem FrameBuffer.flip_flip_self (f : FrameBuffer) (x y : Nat) : (f.flip x y).flip x y = f := by
  refine FrameBuffer.ext_pixel fun i j _ _ => ?_
  rw [FrameBuffer.pixel_flip, FrameBuffer.pixel_flip, Bool.xor_assoc, Bool.xor_self, Bool.xor_false]

theorem FrameBuffer.flip_flip_comm (f : FrameBuffer) (x y x' y' : Nat) :
    (f.flip x y).flip x' y' = (f.flip x' y').flip x y := by
  refine FrameBuffer.ext_pixel fun i j _ _ => ?_
  simp only [FrameBuffer.pixel_flip]
  exact Bool.xor_right_comm _ _ _

/-- The same flips made twice restore the buffer: each pixel is toggled by the same parity both times. -/
theorem FrameBuffer.flipAll_flipAll_self (f : FrameBuffer) (l : List (Nat × Nat)) : (f.flipAll l).flipAll l = f := by
  refine FrameBuffer.ext_pixel fun i j hi hj => ?_
  rw [FrameBuffer.pixel_flipAll _ _ _ _ ⟨hi, hj⟩, FrameBuffer.pixel_flipAll _ _ _ _ ⟨hi, hj⟩, Bool.xor_assoc,
    Bool.xor_self, Bool.xor_false]

/-- Flips of distinct pixels of the grid toggle the listed pixels and no other. -/
theorem FrameBuffer.pixel_flipAll_of_nodup (f : FrameBuffer) {l : List (Nat × Nat)} (hd : l.Nodup)
    (hg : ∀ p ∈ l, offGrid p = false) (i j : Nat) :
    (f.flipAll l).pixel i j = (f.pixel i j ^^ decide ((i, j) ∈ l)) := by
  cases ho : offGrid (i, j) with
  | false =>
    rw [FrameBuffer.pixel_flipAll _ _ _ _ ((offGrid_eq_false_iff i j).mp ho), hd.count]
    by_cases hm : (i, j) ∈ l <;> simp [hm]
  | true =>
    have hm : (i, j) ∉ l := fun hm => by simp [hg _ hm] at ho
    rw [FrameBuffer.pixel_of_offGrid _ ho, FrameBuffer.pixel_of_offGrid _ ho, decide_eq_false hm, Bool.xor_false]

/-! ### The sprite of DRW -/

/-- The pixels DRW draws, where its rows can be read: the set `P` of R123, from column `V[X] mod 63` and row `V[Y]`. -/
def State.sprite (s : State) (x y : RegIdx) (n : BitVec 4) : List (Nat × Nat) :=
  spritePixels (spriteColumn (s.reg x)) (s.reg y).toNat ((List.range' s.dataBase n.toNat).map (Memory.read s.mem))

theorem State.sprite_nodup (s : State) (x y : RegIdx) (n : BitVec 4) : (s.sprite x y n).Nodup :=
  spritePixels_nodup _ _ _

section

variable {x y : RegIdx} {n : BitVec 4} {s t : State}

/-- DRW with every row readable and every pixel on the grid (R124). -/
theorem execDrw_draws (hr : n.toNat = 0 ∨ s.dataBase + n.toNat ≤ Config.memSize)
    (hg : ∀ p ∈ s.sprite x y n, offGrid p = false) :
    execDrw x y n s = .next ((s.setFb (s.fb.flipAll (s.sprite x y n))).emit .present) := by
  have hfind : (s.sprite x y n).find? offGrid = none := List.find?_eq_none.mpr fun p hp => by simp [hg p hp]
  rw [State.sprite] at hfind
  rw [execDrw_rows hr, drawRows, hfind]
  rfl

/-- DRW with every row readable and `p` its first pixel off the grid (R125). -/
theorem execDrw_offGrid {p : Nat × Nat} (hr : n.toNat = 0 ∨ s.dataBase + n.toNat ≤ Config.memSize)
    (hp : (s.sprite x y n).find? offGrid = some p) :
    execDrw x y n s = raiseIn (.drw x y n) (.displayBounds p.1 p.2) s := by
  rw [State.sprite] at hp
  rw [execDrw_rows hr, drawRows, hp]

/-- All that a DRW that leaves no fault can have done. -/
theorem execDrw_completed (h : execDrw x y n s = .next t) (ht : t.fault = none) :
    (n.toNat = 0 ∨ s.dataBase + n.toNat ≤ Config.memSize) ∧ (∀ p ∈ s.sprite x y n, offGrid p = false) ∧
      t = (s.setFb (s.fb.flipAll (s.sprite x y n))).emit .present := by
  by_cases hr : n.toNat = 0 ∨ s.dataBase + n.toNat ≤ Config.memSize
  · rw [execDrw_rows hr] at h
    obtain ⟨rfl, hg⟩ | ⟨p, -, rfl⟩ := drawRows_cases h
    · exact ⟨hr, hg, rfl⟩
    · cases ht
  · rw [execDrw_fault hr] at h
    cases h
    cases ht

end

/-! ### Independence of the frame buffer (R126, spec/10_state.md R26)

An execution started with another frame buffer takes the same branch and gives the same next state but for the frame
buffer. -/

section

variable (f : FrameBuffer)

theorem State.setRegsFrom_setFb (bytes : List Byte) (s : State) (k : Nat) :
    (s.setFb f).setRegsFrom k bytes = (s.setRegsFrom k bytes).setFb f := by
  induction bytes generalizing s k with
  | nil => rfl
  | cons b bs ih => exact ih (s.setReg (BitVec.ofNat 4 k) b) (k + 1)

variable {s t : State}

theorem storeAtI_setFb {i : Instr} {bytes : List Byte} (h : storeAtI i bytes s = .next t) :
    storeAtI i bytes (s.setFb f) = .next (t.setFb f) := by
  have hspan : Memory.writeSpan (s.setFb f).mem (s.setFb f).dataBase bytes =
    Memory.writeSpan s.mem s.dataBase bytes := rfl
  cases hw : Memory.writeSpan s.mem s.dataBase bytes with
  | ok m | error g =>
    rw [storeAtI, hw] at h
    cases h
    rw [storeAtI, hspan, hw]
    rfl

theorem execRet_setFb {x : RegIdx} (h : execRet x s = .next t) : execRet x (s.setFb f) = .next (t.setFb f) := by
  cases hs : s.stack with
  | nil =>
    cases (execRet_underflow hs).symm.trans h
    exact execRet_underflow (s := s.setFb f) hs
  | cons target rest =>
    cases (execRet_pop hs).symm.trans h
    exact execRet_pop (s := s.setFb f) hs

theorem execCall_setFb {nnn : Addr12} (h : execCall nnn s = .next t) :
    execCall nnn (s.setFb f) = .next (t.setFb f) := by
  by_cases hd : s.sp < Config.stackDepth
  · cases (execCall_push hd).symm.trans h
    exact execCall_push (s := s.setFb f) hd
  · cases (execCall_overflow hd).symm.trans h
    exact execCall_overflow (s := s.setFb f) hd

theorem execAddi_setFb {x : RegIdx} (h : execAddi x s = .next t) : execAddi x (s.setFb f) = .next (t.setFb f) := by
  by_cases hfit : s.I.toNat + (s.reg x).toNat ≤ 0xFFFF
  · cases (execAddi_ok hfit).symm.trans h
    exact execAddi_ok (s := s.setFb f) hfit
  · have hover := Nat.lt_of_not_le hfit
    cases (execAddi_fault hover).symm.trans h
    exact execAddi_fault (s := s.setFb f) hover

theorem execLdm_setFb {x : RegIdx} (h : execLdm x s = .next t) : execLdm x (s.setFb f) = .next (t.setFb f) := by
  by_cases hr : s.dataBase + (x.toNat + 1) ≤ Config.memSize
  · cases (execLdm_ok hr).symm.trans h
    rw [← State.setRegsFrom_setFb]
    exact execLdm_ok (s := s.setFb f) hr
  · have hover := Nat.lt_of_not_le hr
    cases (execLdm_fault hover).symm.trans h
    exact execLdm_fault (s := s.setFb f) hover

theorem execStm_setFb {x : RegIdx} (h : execStm x s = .next t) : execStm x (s.setFb f) = .next (t.setFb f) := by
  unfold execStm at h ⊢
  rw [State.regBytes_congr (s.setFb_v f)]
  exact storeAtI_setFb f h

/-- DRW flips the same pixels of any buffer: where they are, and whether it faults, it takes from elsewhere. -/
theorem execDrw_setFb {x y : RegIdx} {n : BitVec 4} (h : execDrw x y n s = .next t) :
    ∃ g, execDrw x y n (s.setFb f) = .next (t.setFb g) := by
  by_cases hr : n.toNat = 0 ∨ s.dataBase + n.toNat ≤ Config.memSize
  · cases hp : (s.sprite x y n).find? offGrid with
    | some p =>
      cases (execDrw_offGrid hr hp).symm.trans h
      exact ⟨f, execDrw_offGrid (s := s.setFb f) hr hp⟩
    | none =>
      have hg : ∀ p ∈ s.sprite x y n, offGrid p = false := fun p hm => by
        simpa using List.find?_eq_none.mp hp p hm
      cases (execDrw_draws hr hg).symm.trans h
      exact ⟨_, execDrw_draws (s := s.setFb f) hr hg⟩
  · cases (execDrw_fault hr).symm.trans h
    exact ⟨f, execDrw_fault (s := s.setFb f) hr⟩

/-- CLS and DRW alone write the frame buffer; every other instruction keeps the buffer it was given. -/
theorem exec_setFb {i : Instr} (h : exec i s = .next t) : ∃ g, exec i (s.setFb f) = .next (t.setFb g) := by
  cases i with
  | cls =>
    cases h
    exact ⟨FrameBuffer.cleared, rfl⟩
  | drw => exact execDrw_setFb f h
  | ret => exact ⟨f, execRet_setFb f h⟩
  | call => exact ⟨f, execCall_setFb f h⟩
  | addi => exact ⟨f, execAddi_setFb f h⟩
  | ldm => exact ⟨f, execLdm_setFb f h⟩
  | bcd => exact ⟨f, storeAtI_setFb f h⟩
  | stm => exact ⟨f, execStm_setFb f h⟩
  | jp | jpv | seImm | sneImm | seReg | sneReg | skp | sknp | waitk | ldi | font | setdt | setst
  | ldImm | addImm | mov | or | and | xor | add | sub | shr | subn | shl | rnd | getdt
  | nop0 | nop8 | nope | nopf =>
    cases h
    exact ⟨f, rfl⟩

/-- What follows a cycle neither reads nor writes the frame buffer (R167). -/
theorem betweenCycles_setFb (s : State) : betweenCycles (s.setFb f) = (betweenCycles s).setFb f := by
  by_cases hf : s.fault = none
  · rw [betweenCycles_running hf, betweenCycles_running (s := s.setFb f) hf]
    rfl
  · rw [betweenCycles_halted hf, betweenCycles_halted (s := s.setFb f) hf]

end

end Sys2Proof.Machine

namespace Sys2Proof.Claims

open Sys2Proof.Machine

theorem offGrid_iff_offScreen (x y : Nat) : offGrid (x, y) = true ↔ offScreen x y := by
  simp [offGrid, offScreen, Nat.lt_iff_add_one_le]

/-- The pixels DRW draws are those of the set bits of its rows (R123). -/
theorem mem_sprite {s : State} {x y : RegIdx} {n : BitVec 4} {p : Nat × Nat} :
    p ∈ s.sprite x y n ↔ ∃ r k, r < n.toNat ∧ k < 8 ∧ spriteBit s r k = true ∧
      p = ((s.reg x).toNat % 63 + k, (s.reg y).toNat + r) := by
  have hrow {r : Nat} (hr : r < n.toNat) :
      ((List.range' s.dataBase n.toNat).map (Memory.read s.mem)).getD r 0 = Memory.read s.mem (s.dataBase + r) := by
    simp [hr]
  have hcol : spriteColumn (s.reg x) = (s.reg x).toNat % 63 := rfl
  obtain ⟨i, j⟩ := p
  rw [State.sprite, hcol, mem_spritePixels, List.length_map, List.length_range']
  constructor
  · rintro ⟨hj, hjn, hi, hik, hbit⟩
    rw [hrow (by omega)] at hbit
    exact ⟨j - (s.reg y).toNat, i - (s.reg x).toNat % 63, by omega, by omega, hbit,
      Prod.ext (Nat.add_sub_cancel' hi).symm (Nat.add_sub_cancel' hj).symm⟩
  · rintro ⟨r, k, hr, hk, hbit, hp⟩
    cases hp
    rw [Nat.add_sub_cancel_left, Nat.add_sub_cancel_left, hrow hr]
    exact ⟨by omega, by omega, by omega, by omega, hbit⟩

/-- Settles O28: the sprite's pixels are distinct and on the grid, so flipping them all toggles each of them once. -/
theorem drawFlipsExactlyTheSpritePixels : Obligations.DrawFlipsExactlyTheSpritePixels := by
  rintro x y n s _ _ rfl rfl hrows hon
  have hgrid : ∀ p ∈ s.sprite x y n, offGrid p = false := by
    intro p hp
    obtain ⟨r, k, hr, hk, hbit, rfl⟩ := mem_sprite.mp hp
    exact Bool.eq_false_iff.mpr (mt (offGrid_iff_offScreen _ _).mp (hon r k hr hk hbit))
  have hpixel := s.fb.pixel_flipAll_of_nodup (s.sprite_nodup x y n) hgrid
  refine ⟨_, execDrw_draws hrows hgrid, rfl, (s.setFb_unchangedBut _).trans (State.emit_unchangedBut _ _), ?_, ?_⟩
  · intro r k hr hk hbit
    have hm : (_, _) ∈ s.sprite x y n := mem_sprite.mpr ⟨r, k, hr, hk, hbit, rfl⟩
    rw [State.emit_fb, State.setFb_fb, hpixel, decide_eq_true hm, Bool.xor_true]
  · intro i j hout
    have hm : (i, j) ∉ s.sprite x y n := fun hm => by
      obtain ⟨r, k, hr, hk, hbit, hp⟩ := mem_sprite.mp hm
      exact hout r k hr hk hbit (Prod.mk.inj hp)
    rw [State.emit_fb, State.setFb_fb, hpixel, decide_eq_false hm, Bool.xor_false]

/-- Settles O30: the sprite's pixels stand in row-major order, so the search of the drawing phase finds the first one. -/
theorem drawFaultsAtTheFirstPixelOffTheGrid : Obligations.DrawFaultsAtTheFirstPixelOffTheGrid := by
  rintro x y n s _ _ r k rfl rfl hrows hr hk hbit hoff hfirst
  have hfind : (s.sprite x y n).find? offGrid = some ((s.reg x).toNat % 63 + k, (s.reg y).toNat + r) := by
    refine find?_of_sorted (spritePixels_sorted _ _ _) (mem_sprite.mpr ⟨r, k, hr, hk, hbit, rfl⟩)
      ((offGrid_iff_offScreen _ _).mpr hoff) fun p hp hpoff hlt => ?_
    obtain ⟨r', k', -, hk', hbit', rfl⟩ := mem_sprite.mp hp
    have hbefore : before r' k' r k := hlt.imp Nat.lt_of_add_lt_add_left
      fun ⟨hrow, hcol⟩ => ⟨Nat.add_left_cancel hrow, Nat.lt_of_add_lt_add_left hcol⟩
    exact hfirst r' k' hbefore hk' hbit' ((offGrid_iff_offScreen _ _).mp hpoff)
  obtain ⟨t, ht, hrest⟩ := raiseIn_faultIn (.drw x y n) (.displayBounds _ _) s
  exact ⟨t, (execDrw_offGrid (.inr hrows) hfind).trans ht, hrest⟩

/-- Settles O31: a flip is an exclusive or of one pixel, and CLS answers the empty buffer whatever was there. -/
theorem flipsAreSelfInverseAndCommute : Obligations.FlipsAreSelfInverseAndCommute :=
  ⟨fun f x y _ _ => f.flip_flip_self x y, FrameBuffer.flip_flip_comm, fun _ _ _ => ⟨_, rfl, FrameBuffer.pixel_cleared⟩⟩

/-- Settles O32: the first draw leaves the registers, `I` and memory alone, so the second one draws the same sprite. -/
theorem drawingTwiceRestoresTheBuffer : Obligations.DrawingTwiceRestoresTheBuffer := by
  intro x y n s t hs h ht
  obtain ⟨hrows, hgrid, rfl⟩ := execDrw_completed h ht
  exact ⟨_, execDrw_draws (s := (s.setFb _).emit .present) hrows hgrid, hs, s.fb.flipAll_flipAll_self _⟩

/-- Settles O46: the step with the other buffer is halted, faults in the fetch, or executes the same instruction, exactly
as the given one does. -/
theorem pixelsNeverInfluenceAnythingElse : Obligations.PixelsNeverInfluenceAnythingElse := by
  intro s t f h
  obtain ⟨hf, rfl⟩ | ⟨hf, hp, rfl⟩ | ⟨hf, hp, u, hu, rfl⟩ := step_cases h
  · exact ⟨f, step_halted (s := t.setFb f) hf⟩
  · exact ⟨f, step_fetch_fault (s := s.setFb f) hf hp⟩
  · obtain ⟨g, hg⟩ := exec_setFb f hu
    refine ⟨g, (step_running (s := s.setFb f) hf hp).trans ?_⟩
    rw [← betweenCycles_setFb]
    exact congrArg afterCycle hg

/-- Settles O27: CLS writes the empty buffer and emits its event. -/
theorem clearTurnsEveryPixelOff : Obligations.ClearTurnsEveryPixelOff :=
  fun _ s => ⟨_, rfl, FrameBuffer.pixel_cleared, rfl, (s.setFb_unchangedBut _).trans (State.emit_unchangedBut _ _)⟩

/-- Settles O29, by the law of a DRW whose rows do not all exist. -/
theorem drawFaultsWhenARowIsOutOfMemory : Obligations.DrawFaultsWhenARowIsOutOfMemory := by
  intro x y n s hn hover
  obtain ⟨t, ht, hrest⟩ := raiseIn_faultIn (.drw x y n) (.memoryBounds (max s.dataBase 0x1000) .read) s
  exact ⟨t, (execDrw_fault (not_or.mpr ⟨hn, Nat.not_le.mpr hover⟩)).trans ht, hrest⟩

end Sys2Proof.Claims

/-! ## Keys and timers (spec/44_keys_timers.md R130 to R135)

A key skip by what its condition means, and WAITK by its two laws: no key held, and some key held. -/

namespace Sys2Proof.Machine

/-- The test of R130: a code above 15 is never held. -/
theorem State.keyHeld_iff (s : State) (x : RegIdx) :
    s.keyHeld x = true ↔ (s.reg x).toNat ≤ 15 ∧ s.keys.getLsbD (s.reg x).toNat = true := by
  rw [State.keyHeld, Bool.and_eq_true, decide_eq_true_iff]

/-- Everything a skip does, its condition given by what it means (R16). -/
theorem State.skipIf_effect (s : State) {c : Bool} {p : Prop} (h : c = true ↔ p) :
    (p → (s.skipIf c).pc = s.pc + 2) ∧ (¬p → (s.skipIf c).pc = s.pc) ∧ UnchangedBut [.pc] s (s.skipIf c) :=
  ⟨fun hp => if_pos (h.mpr hp), fun hn => if_neg (mt h.mp hn), s.skipIf_unchangedBut c⟩

/-- A snapshot with no bit set is the zero snapshot (R29). -/
theorem State.keys_eq_zero {s : State} (h : ∀ k, k < 16 → s.keys.getLsbD k = false) : s.keys = 0 :=
  BitVec.eq_of_getLsbD_eq fun k hk => (h k hk).trans BitVec.getLsbD_zero.symm

theorem State.keys_ne_zero {s : State} {k : Nat} (h : s.keys.getLsbD k = true) : s.keys ≠ 0 := by
  intro h0
  rw [h0] at h
  exact Bool.false_ne_true (BitVec.getLsbD_zero.symm.trans h)

/-- WAITK with no key held (R133). -/
theorem execWaitk_noKey (x : RegIdx) {s : State} (h : s.keys = 0) : execWaitk x s = .next (s.setPc (s.pc - 2)) := by
  rw [execWaitk, State.rewindIf_eq, if_pos (beq_iff_eq.mpr h)]

/-- WAITK with a key held (R133). -/
theorem execWaitk_key (x : RegIdx) {s : State} (h : s.keys ≠ 0) : execWaitk x s = .next s := by
  rw [execWaitk, State.rewindIf_eq, if_neg (mt beq_iff_eq.mp h)]
  rfl

end Sys2Proof.Machine

namespace Sys2Proof.Claims

open Sys2Proof.Machine

/-- Settles O33: SKP is a skip on the test of the key, SKNP one on its negation. -/
theorem keySkipsTestTheSnapshot : Obligations.KeySkipsTestTheSnapshot := by
  intro x s held hheld
  have hkey : s.keyHeld x = true ↔ held := (s.keyHeld_iff x).trans hheld.symm
  have hnot : (!s.keyHeld x) = true ↔ ¬held := by rw [← hkey, Bool.not_eq_true, Bool.not_eq_true']
  obtain ⟨skips, stays, hframe⟩ := s.skipIf_effect hnot
  exact ⟨⟨_, rfl, s.skipIf_effect hkey⟩, ⟨_, rfl, fun h => stays (not_not_intro h), skips, hframe⟩⟩

/-- Settles O34, by the two laws of WAITK: the zero snapshot and one with some bit set. -/
theorem waitRepeatsUntilAnyKeyIsHeld : Obligations.WaitRepeatsUntilAnyKeyIsHeld :=
  fun x s => ⟨fun hnone => ⟨_, execWaitk_noKey x (State.keys_eq_zero hnone), rfl, s.setPc_unchangedBut _⟩,
    fun _ _ hbit => ⟨s, execWaitk_key x (State.keys_ne_zero hbit), UnchangedBut.refl _ s⟩⟩

/-- Settles O35: each of the two is one write of a timer. -/
theorem timerWritesSetOneTimer : Obligations.TimerWritesSetOneTimer :=
  fun x s => ⟨⟨_, rfl, rfl, s.setDT_unchangedBut (s.reg x)⟩, ⟨_, rfl, rfl, s.setST_unchangedBut (s.reg x)⟩⟩

end Sys2Proof.Claims

/-! ## No-ops (spec/45_noops.md R140 to R143)

Each of the four arms of the dispatch answers the state it was given: the fetch has already moved `pc` to `a + 2`. -/

namespace Sys2Proof.Claims

open Sys2Proof.Machine

/-- Settles O7, arm by arm: for any operands NOP0, NOP8, NOPE and NOPF are each dispatched to the identity. -/
theorem noopInstructionsChangeNothing : Obligations.NoopInstructionsChangeNothing :=
  fun _nnn _x _y _n _nn _s => ⟨rfl, rfl, rfl, rfl⟩

end Sys2Proof.Claims

/-! ## The timer agent and faults (spec/60_exceptions.md R152, R156 to R158, R165, R166, R168)

One tick of either timer in a running and in a halted core, and the one way an execution comes to hold a fault record. -/

namespace Sys2Proof.Machine

/-- No tick falls while the core is halted (R157). -/
theorem tickDT_halted {s : State} (h : s.fault ≠ none) : tickDT s = s := by
  unfold tickDT
  split
  · rfl
  · exact absurd ‹_› h

theorem tickST_halted {s : State} (h : s.fault ≠ none) : tickST s = s := by
  unfold tickST
  split
  · rfl
  · exact absurd ‹_› h

/-- One tick of the sound timer in a running core is a run of one. -/
theorem tickST_running {s : State} (h : s.fault = none) : tickST s = runTicks 0 1 s := iterate_tickST 1 h

/-- Ticks of the delay timer alone write that timer alone (R165). -/
theorem runTicks_dt_unchangedBut (k : Nat) (s : State) : UnchangedBut [.DT] s (runTicks k 0 s) :=
  s.setDT_unchangedBut (countDownBy k s.DT)

/-- Ticks of the sound timer alone leave the delay timer as well (R166). -/
theorem runTicks_st_unchangedBut (k : Nat) (s : State) : UnchangedBut [.ST, .events] s (runTicks 0 k s) := by
  intro p hp
  by_cases hDT : p = .DT
  · rw [hDT]
    rfl
  · exact runTicks_unchangedBut 0 k s p (List.not_mem_cons_of_ne_of_not_mem hDT hp)

/-- The beep of one tick, by the value it arrives at (R166): that the value is not 0 says that there was a decrement. -/
theorem tickEvents_eq_ite (t : Byte) :
    tickEvents t = if t.toNat - 1 ≠ 0 ∧ (t.toNat - 1) % 30 = 0 then [.beep] else [] := by
  have hzero (b : Byte) : b ≠ 0 ↔ b.toNat ≠ 0 := BitVec.toNat_ne_iff_ne.symm
  have hbeep : (t ≠ 0 ∧ countDown t ≠ 0 ∧ (countDown t).toNat % Config.beepDivisor = 0) ↔
      t.toNat - 1 ≠ 0 ∧ (t.toNat - 1) % 30 = 0 := by
    rw [hzero, hzero, countDown_toNat, Config.beepDivisor]
    omega
  simp only [tickEvents, hbeep]

/-- An execution either faults or leaves the record as it is: the record is in the frame of what the instructions that may
fault do otherwise, and of every other instruction. -/
theorem exec_execFault_or_fault_eq {i : Instr} {s t : State} (h : exec i s = .next t) :
    ExecFault i s t ∨ t.fault = s.fault := by
  cases i with
  | ret =>
    refine (execRet_cases h).imp_right ?_
    rintro ⟨target, rest, -, rfl⟩
    rfl
  | call =>
    refine (execCall_cases h).imp_right ?_
    rintro ⟨-, rfl⟩
    rfl
  | drw =>
    refine (execDrw_cases h).imp_right ?_
    rintro rfl
    rfl
  | addi =>
    refine (execAddi_cases h).imp_right ?_
    rintro rfl
    rfl
  | ldm =>
    refine (execLdm_cases h).imp_right ?_
    rintro rfl
    exact s.setRegsFrom_unchangedBut _ _ .fault (by simp)
  | bcd | stm =>
    refine (storeAtI_effect h).imp_right ?_
    rintro ⟨-, rfl⟩
    rfl
  | cls | jp | jpv | seImm | sneImm | seReg | sneReg | skp | sknp | waitk | ldi | font | setdt | setst
  | ldImm | addImm | mov | or | and | xor | add | sub | shr | subn | shl | rnd | getdt
  | nop0 | nop8 | nope | nopf => exact .inr (exec_unchangedBut h .fault (by simp [Instr.mayChange]))

/-- A running machine comes to hold a record in its execute phase by a fault of the instruction alone. -/
theorem exec_execFault {i : Instr} {s t : State} (h : exec i s = .next t) (hs : s.fault = none) (ht : t.fault ≠ none) :
    ExecFault i s t :=
  (exec_execFault_or_fault_eq h).resolve_right fun he => ht (he.trans hs)

end Sys2Proof.Machine

namespace Sys2Proof.Claims

open Sys2Proof.Machine

/-- Settles O50: a record after a step is that of the fetch, or that of a fault of the decoded instruction in its execute
phase, which nothing follows; the decoded instruction encodes to the opcode it came from. -/
theorem faultsArePrecise : Obligations.FaultsArePrecise := by
  intro s t r hs h hr
  obtain ⟨hf, -⟩ | ⟨-, hp, rfl⟩ | ⟨-, hp, u, hu, rfl⟩ := step_cases h
  · exact absurd hs hf
  · cases hr
    exact ⟨rfl, rfl, fun _ => ⟨rfl, rfl⟩, fun hle => absurd (Nat.add_le_add_right hle 2) hp⟩
  · rw [betweenCycles_fault] at hr
    have hfu : u.fault ≠ none := by simp [hr]
    rw [betweenCycles_halted hfu]
    obtain ⟨f, -, -, rfl⟩ := exec_execFault hu hs hfu
    cases hr
    refine ⟨rfl, BitVec.add_sub_cancel s.pc 2, fun hlt => ?_, fun _ => ⟨rfl, ?_⟩⟩
    · exact absurd (Nat.le_of_add_le_add_right hp) (Nat.not_le_of_lt hlt)
    · exact congrArg some (encode_decodeWord (opcodeAt s s.pc))

/-- Settles O36: any number of ticks is one run of ticks (`iterate_tickDT`, by induction), whose count is a truncated
subtraction. -/
theorem delayTicksCountDownAndHoldAtZero : Obligations.DelayTicksCountDownAndHoldAtZero := by
  intro k s hf
  rw [iterate_tickDT k hf]
  exact ⟨countDownBy_toNat k s.DT, runTicks_dt_unchangedBut k s⟩

/-- Settles O37: the decrement in numbers, and the event of one tick by the value it arrives at. -/
theorem soundTickBeepsAtMultiplesOfThirty : Obligations.SoundTickBeepsAtMultiplesOfThirty := by
  intro s hf
  have hevents : (runTicks 0 1 s).events = tickEvents s.ST ++ s.events := rfl
  rw [tickST_running hf, hevents, tickEvents_eq_ite]
  refine ⟨countDownBy_toNat 1 s.ST, fun hbeep => ?_, fun hquiet => ?_, runTicks_st_unchangedBut 1 s⟩
  · rw [if_pos hbeep]
    rfl
  · rw [if_neg (by omega)]
    rfl

/-- Settles O38: any number of ticks is one run of ticks (`iterate_tickST`, by induction), whose beeps are counted by the
multiples of 30 passed through (`beepsBy_eq`). -/
theorem soundTicksGiveOneBeepPerMultiplePassed : Obligations.SoundTicksGiveOneBeepPerMultiplePassed := by
  intro k s hf
  rw [iterate_tickST k hf, runTicks_events, beepsBy_eq]
  exact ⟨countDownBy_toNat k s.ST, rfl⟩

/-- Settles O48: above 0xFFE the two bytes of an opcode do not fit in memory, and the step is the raise of the fetch. -/
theorem fetchFaultsAboveTheLastOpcode : Obligations.FetchFaultsAboveTheLastOpcode :=
  fun s hf hp => ⟨_, step_fetch_fault hf (Nat.not_le_of_lt (Nat.add_lt_add_right hp 2)), rfl, s.raise_unchangedBut _ _ _⟩

/-- Settles O49: the step and both ticks test the record first. -/
theorem aHaltedMachineNeverChanges : Obligations.AHaltedMachineNeverChanges :=
  fun _ h => ⟨step_halted h, tickDT_halted h, tickST_halted h⟩

end Sys2Proof.Claims

/-! ## Boot and the settled state (spec/70_reset_and_hazards.md R182, R183, R190)

The memory boot leaves, read in its three ranges; and the opcode of a jump to itself, which a settled state holds at
`pc` and which executes to the state it was fetched from. -/

namespace Sys2Proof.Machine

/-- The memory after boot: over the empty memory of reset, the font and then the image (R182). -/
def bootMemory (font : Vector Byte Config.fontLen) (image : List Byte) : Memory :=
  Memory.writeBytes (Memory.writeBytes [] Config.fontBase font.toList) Config.progBase image

/-- Boot replaces the memory of the reset state and nothing else (R182). -/
theorem boot_of_fits (s : State) (font : Vector Byte Config.fontLen) {image : List Byte}
    (h : image.length ≤ Config.progMaxLen) : boot s font image = .ok (s.rst.setMem (bootMemory font image)) :=
  if_pos h

theorem boot_of_too_long (s : State) (font : Vector Byte Config.fontLen) {image : List Byte}
    (h : Config.progMaxLen < image.length) : boot s font image = .error (.imageTooLong image.length) :=
  if_neg (Nat.not_le_of_lt h)

theorem Memory.read_writeBytes_of_outside (m : Memory) {a c : Nat} {bytes : List Byte}
    (h : ¬(a ≤ c ∧ c < a + bytes.length)) : Memory.read (Memory.writeBytes m a bytes) c = Memory.read m c := by
  rw [Memory.read_writeBytes, if_neg h]

section

variable (font : Vector Byte Config.fontLen) (image : List Byte)

/-- The font ends below 0x200, so the image written after it leaves it alone. -/
theorem read_bootMemory_font {k : Nat} (h : k < Config.fontLen) :
    Memory.read (bootMemory font image) (Config.fontBase + k) = font[k] := by
  have hends : Config.fontBase + Config.fontLen ≤ Config.progBase := by decide
  have hbyte : font.toList[k]? = some font[k] := by simp [h]
  rw [bootMemory, Memory.read_writeBytes_of_outside _ (by omega), Memory.read_writeBytes_of_getElem? _ _ hbyte]

theorem read_bootMemory_image {j : Nat} (h : j < image.length) :
    Memory.read (bootMemory font image) (Config.progBase + j) = image[j] :=
  Memory.read_writeBytes_of_getElem? _ _ (List.getElem?_eq_getElem h)

theorem read_bootMemory_elsewhere {a : Nat}
    (hfont : ¬(Config.fontBase ≤ a ∧ a < Config.fontBase + Config.fontLen))
    (himage : ¬(Config.progBase ≤ a ∧ a < Config.progBase + image.length)) :
    Memory.read (bootMemory font image) a = Memory.unlisted := by
  rw [bootMemory, Memory.read_writeBytes_of_outside _ himage,
    Memory.read_writeBytes_of_outside _ (by rwa [Vector.length_toList])]
  rfl

end

/-! ### A jump to itself -/

/-- The word `1NNN` in numbers (R66). -/
theorem encode_jp_toNat (nnn : Addr12) : (encode (.jp nnn)).toNat = 0x1000 ||| nnn.toNat :=
  BitVec.toNat_append _ _

/-- The byte of a jump stored first: the digit 1 and the top digit of the target. -/
theorem highByte_encode_jp_toNat (nnn : Addr12) : (highByte (encode (.jp nnn))).toNat = 0x10 ||| nnn.toNat >>> 8 := by
  have hword := (encode (.jp nnn)).isLt
  rw [highByte, BitVec.extractLsb'_toNat, Nat.mod_eq_of_lt (by omega), encode_jp_toNat, Nat.shiftRight_or_distrib]
  rfl

/-- The byte of a jump stored second: the low byte of the target. -/
theorem lowByte_encode_jp_toNat (nnn : Addr12) : (lowByte (encode (.jp nnn))).toNat = nnn.toNat &&& 0xFF := by
  rw [lowByte, BitVec.extractLsb'_toNat, Nat.shiftRight_zero, encode_jp_toNat, Nat.or_mod_two_pow,
    Nat.and_two_pow_sub_one_eq_mod nnn.toNat 8]
  exact Nat.zero_or _

/-- A jump to the address it was fetched from undoes the fetch advance (R81, R190). -/
theorem exec_jp_self {s : State} {nnn : Addr12} (h : nnn.toNat = s.pc.toNat) : exec (.jp nnn) s.advance = .next s := by
  have hpc : zextPc nnn = s.pc := BitVec.eq_of_toNat_eq ((zextPc_toNat nnn).trans h)
  have hexec : exec (.jp nnn) s.advance = .next (s.advance.setPc (zextPc nnn)) := rfl
  rw [hexec, hpc]
  rfl

/-- Being settled speaks of the fault record, `pc` and memory, which nothing between two cycles touches. -/
theorem State.settled.betweenCycles {s : State} (h : s.settled) : (betweenCycles s).settled := by
  rwa [State.settled, betweenCycles_fault, betweenCycles_pc, betweenCycles_mem]

end Sys2Proof.Machine

namespace Sys2Proof.Claims

open Sys2Proof.Machine

/-- What stands at `pc` in a settled state is the opcode of the jump to `pc` (R190). -/
theorem opcodeAt_settled {s : State} (h : s.settled) {nnn : Addr12} (hn : nnn.toNat = s.pc.toNat) :
    opcodeAt s s.pc = encode (.jp nnn) := by
  obtain ⟨-, -, hhigh, hlow⟩ := h
  rw [← hn] at hhigh hlow
  have hhi := BitVec.eq_of_toNat_eq (hhigh.trans (highByte_encode_jp_toNat nnn).symm)
  have hlo := BitVec.eq_of_toNat_eq (hlow.trans (lowByte_encode_jp_toNat nnn).symm)
  rw [opcodeAt, ← hn, hhi, hlo, joinBytes_bytes]

/-- The cycle of a settled state changes nothing, so its step is what follows a cycle. -/
theorem step_settled {s : State} (h : s.settled) : step s = .next (betweenCycles s) := by
  have ⟨hf, hp, _⟩ := h
  obtain ⟨nnn, hn⟩ : ∃ nnn : Addr12, nnn.toNat = s.pc.toNat := ⟨BitVec.ofNatLT s.pc.toNat (by omega), rfl⟩
  rw [step_opcodeAt hf hp, opcodeAt_settled h hn, decodeWord_encode rfl, exec_jp_self hn]
  rfl

/-- Settles O54: a font byte, an image byte and any other byte of the memory boot leaves (`boot_of_fits`), and the
refusal. -/
theorem bootLaysOutTheFontAndTheImage : Obligations.BootLaysOutTheFontAndTheImage := by
  intro s font image
  refine ⟨fun hfits => ⟨_, boot_of_fits s font hfits, s.rst.setMem_unchangedBut _, ?_, ?_, ?_⟩, boot_of_too_long s font⟩
  · exact fun _ hk => read_bootMemory_font font image hk
  · exact fun _ hj => read_bootMemory_image font image hj
  · exact fun _ hfont himage => read_bootMemory_elsewhere font image hfont himage

/-- Settles O55: the step is what follows a cycle (`step_settled`), which keeps the state settled and moves the timers,
the beeps and the inputs alone. -/
theorem settledStatesStaySettled : Obligations.SettledStatesStaySettled :=
  fun s h => ⟨betweenCycles s, step_settled h, h.betweenCycles, betweenCycles_unchangedBut s⟩

end Sys2Proof.Claims
